-- ==== Sys2Proof/Word.lean ====
section
/-! DEFINITION. The word types of the block (30_encoding.md R82): bytes, the 16-bit coordinates, sizes, spacings and
colors, and the 32-bit source-memory addresses. -/

namespace Sys2Proof

/-- A u8: an opcode, a channel intensity, a codepoint, a font width or height, a token's byte, a byte of memory. -/
abbrev Byte := BitVec 8

/-- A u16: a coordinate, size, radius, spacing, CJK index, count, length or RGB565 color (`COORD_W` = 16, R6). -/
abbrev Half := BitVec 16

/-- A u32: a source-memory byte address (`ADDR_W` = 32, R6) or a value of the register port (R23). -/
abbrev Word := BitVec 32

end Sys2Proof
end

