-- ==== Sys2Proof/Syntax.lean ====
section
/-! DEFINITION. The commands of the block: one constructor per row of spec/opcode_table.json, its arguments in the order
and with the widths of 30_encoding.md R82 and R85. -/

namespace Sys2Proof

/-- A host command (30_encoding.md R85). -/
inductive Instr where
  /-- 0x00 NOP -/
  | nop
  /-- 0x01 SET_WINDOW -/
  | setWindow (xs ys xe ye : Half)
  /-- 0x02 WRITE_PIXEL -/
  | writePixel (color : Half)
  /-- 0x03 PACK565 -/
  | pack565 (r g b : Byte)
  /-- 0x04 BLIT -/
  | blit (x y w h : Half) (addr : Word)
  /-- 0x10 DRAW_PIXEL -/
  | drawPixel (x y color : Half)
  /-- 0x11 DRAW_LINE -/
  | drawLine (x0 y0 x1 y1 color : Half)
  /-- 0x12 DRAW_CIRCLE -/
  | drawCircle (x0 y0 r color : Half)
  /-- 0x13 DRAW_TRIANGLE -/
  | drawTriangle (x0 y0 x1 y1 x2 y2 color : Half)
  /-- 0x14 DRAW_RECT -/
  | drawRect (x0 y0 w h color : Half)
  /-- 0x20 SET_FONT -/
  | setFont (base : Word) (fw fh : Byte)
  /-- 0x21 SET_CURSOR_POS -/
  | setCursorPos (x y : Half)
  /-- 0x22 SET_CURSOR_STYLE -/
  | setCursorStyle (color cspace lspace : Half)
  /-- 0x23 PUT_CHAR -/
  | putChar (ch : Byte)
  /-- 0x24 PUT_STRING -/
  | putString (addr : Word) (len : Half)
  /-- 0x30 SET_CJK_TABLE -/
  | setCjkTable (base : Word) (count : Half)
  /-- 0x31 DRAW_CJK -/
  | drawCjk (x y index color : Half)
  deriving DecidableEq, Repr

end Sys2Proof
end

