-- ==== Sys2Proof/Decode.lean ====
section
/-! DEFINITION. The command port's decoder, total on bytes (30_encoding.md R81-R88), and the encoder written from the same
tables. -/

namespace Sys2Proof

/-- A frame's length by its opcode (R83, R85), or `none` for a reserved opcode (R86). -/
def frameLength (opcode : Byte) : Option Nat :=
  match opcode.toNat with
  | 0x00 => some 1
  | 0x01 => some 9
  | 0x02 => some 3
  | 0x03 => some 4
  | 0x04 => some 13
  | 0x10 => some 7
  | 0x11 => some 11
  | 0x12 => some 9
  | 0x13 => some 15
  | 0x14 => some 11
  | 0x20 => some 7
  | 0x21 => some 5
  | 0x22 => some 7
  | 0x23 => some 2
  | 0x24 => some 7
  | 0x30 => some 7
  | 0x31 => some 9
  | _ => none

/-- The longest frame (format H7, R83). -/
def maxFrameLength : Nat := 15

/-- Two bytes as a u16, most significant byte first (R81). -/
def be16 (a b : Byte) : Half := a ++ b

/-- Four bytes as a u32, most significant byte first (R81). -/
def be32 (a b c d : Byte) : Word := (a ++ b) ++ (c ++ d)

/-- The bytes of a u16, most significant first (R81). -/
def bytes16 (v : Half) : List Byte := [v.extractLsb' 8 8, v.extractLsb' 0 8]

/-- The bytes of a u32, most significant first (R81). -/
def bytes32 (v : Word) : List Byte :=
  [v.extractLsb' 24 8, v.extractLsb' 16 8, v.extractLsb' 8 8, v.extractLsb' 0 8]

/-- The u8 argument at byte `k` of a frame (opcode at byte 0, R83). -/
def u8At (frame : List Byte) (k : Nat) : Byte := frame.getD k 0

/-- The u16 argument at bytes `k`, `k+1` of a frame (R83). -/
def u16At (frame : List Byte) (k : Nat) : Half := be16 (u8At frame k) (u8At frame (k + 1))

/-- The u32 argument at bytes `k` to `k+3` of a frame (R83). -/
def u32At (frame : List Byte) (k : Nat) : Word :=
  be32 (u8At frame k) (u8At frame (k + 1)) (u8At frame (k + 2)) (u8At frame (k + 3))

/-- The arguments of a frame, at the byte offsets of R83 and the table's `source_fields`, as a command; `none` where the
opcode is reserved (R86). -/
def readFrame (frame : List Byte) (opcode : Byte) : Option Instr :=
  match opcode.toNat with
  | 0x00 => some .nop
  | 0x01 => some (.setWindow (u16At frame 1) (u16At frame 3) (u16At frame 5) (u16At frame 7))
  | 0x02 => some (.writePixel (u16At frame 1))
  | 0x03 => some (.pack565 (u8At frame 1) (u8At frame 2) (u8At frame 3))
  | 0x04 => some (.blit (u16At frame 1) (u16At frame 3) (u16At frame 5) (u16At frame 7) (u32At frame 9))
  | 0x10 => some (.drawPixel (u16At frame 1) (u16At frame 3) (u16At frame 5))
  | 0x11 => some (.drawLine (u16At frame 1) (u16At frame 3) (u16At frame 5) (u16At frame 7) (u16At frame 9))
  | 0x12 => some (.drawCircle (u16At frame 1) (u16At frame 3) (u16At frame 5) (u16At frame 7))
  | 0x13 =>
    some (.drawTriangle (u16At frame 1) (u16At frame 3) (u16At frame 5) (u16At frame 7) (u16At frame 9)
      (u16At frame 11) (u16At frame 13))
  | 0x14 => some (.drawRect (u16At frame 1) (u16At frame 3) (u16At frame 5) (u16At frame 7) (u16At frame 9))
  | 0x20 => some (.setFont (u32At frame 1) (u8At frame 5) (u8At frame 6))
  | 0x21 => some (.setCursorPos (u16At frame 1) (u16At frame 3))
  | 0x22 => some (.setCursorStyle (u16At frame 1) (u16At frame 3) (u16At frame 5))
  | 0x23 => some (.putChar (u8At frame 1))
  | 0x24 => some (.putString (u32At frame 1) (u16At frame 5))
  | 0x30 => some (.setCjkTable (u32At frame 1) (u16At frame 5))
  | 0x31 => some (.drawCjk (u16At frame 1) (u16At frame 3) (u16At frame 5) (u16At frame 7))
  | _ => none

/-- What the decoder makes of the bytes at the port. -/
inductive Decoded where
  /-- a complete frame of the opcode map, and the bytes after it -/
  | command (i : Instr) (rest : List Byte)
  /-- a reserved opcode: a one-byte frame (R86), and the bytes after it -/
  | reserved (opcode : Byte) (rest : List Byte)
  /-- no opcode yet, or fewer bytes than its length: not a frame (R88) -/
  | incomplete
  deriving DecidableEq, Repr

/-- The decoder (R84, R86, R88). -/
def decode (bytes : List Byte) : Decoded :=
  match bytes with
  | [] => .incomplete
  | opcode :: rest =>
    match frameLength opcode, readFrame bytes opcode with
    | some n, some i => if bytes.length < n then .incomplete else .command i (bytes.drop n)
    | _, _ => .reserved opcode rest

/-- The words of a command: its opcode byte and its arguments in order (R81, R85). -/
def encode : Instr → List Byte
  | .nop => [0x00]
  | .setWindow xs ys xe ye => 0x01 :: (bytes16 xs ++ bytes16 ys ++ bytes16 xe ++ bytes16 ye)
  | .writePixel c => 0x02 :: bytes16 c
  | .pack565 r g b => [0x03, r, g, b]
  | .blit x y w h addr => 0x04 :: (bytes16 x ++ bytes16 y ++ bytes16 w ++ bytes16 h ++ bytes32 addr)
  | .drawPixel x y c => 0x10 :: (bytes16 x ++ bytes16 y ++ bytes16 c)
  | .drawLine x0 y0 x1 y1 c => 0x11 :: (bytes16 x0 ++ bytes16 y0 ++ bytes16 x1 ++ bytes16 y1 ++ bytes16 c)
  | .drawCircle x0 y0 r c => 0x12 :: (bytes16 x0 ++ bytes16 y0 ++ bytes16 r ++ bytes16 c)
  | .drawTriangle x0 y0 x1 y1 x2 y2 c =>
    0x13 :: (bytes16 x0 ++ bytes16 y0 ++ bytes16 x1 ++ bytes16 y1 ++ bytes16 x2 ++ bytes16 y2 ++ bytes16 c)
  | .drawRect x0 y0 w h c => 0x14 :: (bytes16 x0 ++ bytes16 y0 ++ bytes16 w ++ bytes16 h ++ bytes16 c)
  | .setFont base fw fh => 0x20 :: (bytes32 base ++ [fw, fh])
  | .setCursorPos x y => 0x21 :: (bytes16 x ++ bytes16 y)
  | .setCursorStyle c cs ls => 0x22 :: (bytes16 c ++ bytes16 cs ++ bytes16 ls)
  | .putChar ch => [0x23, ch]
  | .putString addr len => 0x24 :: (bytes32 addr ++ bytes16 len)
  | .setCjkTable base count => 0x30 :: (bytes32 base ++ bytes16 count)
  | .drawCjk x y index c => 0x31 :: (bytes16 x ++ bytes16 y ++ bytes16 index ++ bytes16 c)

/-- Byte `k` of an instruction whose bits are numbered as spec/opcode_table.json numbers them: the first byte is bits
7..0, the next 15..8, and so on; bits from `nbits` up are 0. -/
def tableByte (nbits w k : Nat) : Byte := BitVec.ofNat 8 ((w % 2 ^ nbits) / 2 ^ (8 * k))

/-- The bytes of such an instruction, up to the longest frame. -/
def tableBytes (nbits w : Nat) : List Byte := (List.range maxFrameLength).map (tableByte nbits w)

/-- The bytes of such an instruction, cut to its own frame's length (a reserved opcode's frame is one byte, R86). -/
def tableFrame (nbits w : Nat) : List Byte :=
  (tableBytes nbits w).take ((frameLength (tableByte nbits w 0)).getD 1)

/-- The command the decoder reads from a table word; `none` where it refuses. -/
def decodeTableWord (nbits w : Nat) : Option Instr :=
  match decode (tableBytes nbits w) with
  | .command i _ => some i
  | .reserved _ _ => none
  | .incomplete => none

end Sys2Proof
end

