-- ==== Sys2Proof/Config.lean ====
section
/-! DEFINITION. The implementation parameters of 00_scope.md R6 and the free values.

R6: "A model takes each `OPEN` parameter as an argument." They are collected in `Params`, which the state carries as a
constant of the run (R7: "No command changes them"), so that every statement about all states is about all parameters.
The free values are opaque: nothing can be proved about what they are. -/

namespace Sys2Proof

/-- `CJK_BG_MODE` (R6, D24): what DRAW_CJK does with 0 bits. -/
inductive BgMode where
  | black
  | transparent
  deriving DecidableEq, Repr

/-- `TEXT_MAX_CHARS` (R6, D26, C11): 127 or 128, and nothing else. -/
inductive TextBound where
  | chars127
  | chars128
  deriving DecidableEq, Repr

/-- The `OPEN` parameters of R6. Their legal ranges are `Params.ok` (WellFormed.lean). -/
structure Params where
  /-- `COLUMN_COUNT`, 1..65535 -/
  columnCount : Half
  /-- `LINE_COUNT`, 1..65535 -/
  lineCount : Half
  /-- `COLUMN_OFFSET`, added to every column address -/
  columnOffset : Half
  /-- `LINE_OFFSET`, added to every row address -/
  lineOffset : Half
  /-- `CMD_CASET` -/
  cmdCaset : Byte
  /-- `CMD_RASET` -/
  cmdRaset : Byte
  /-- `CMD_RAMWR` -/
  cmdRamwr : Byte
  /-- `MEM_SIZE`, bytes of source memory, 1..2^32 -/
  memSize : Nat
  /-- `TEXT_MAX_CHARS` -/
  textMax : TextBound
  /-- `CJK_BG_MODE` -/
  cjkBg : BgMode
  deriving DecidableEq, Repr

/-- `FONT_W_MAX`, fixed by R6. -/
def Config.fontWMax : Nat := 16

/-- The parameters of `State.reset`. Where R6 gives a default, that default. DESIGN CHOICE (unsafe, log 1): the panel is
16 by 16 with no offsets and there are 0x1000 bytes of memory, the values 95_test_vectors.md uses where it names none.
No statement rests on these numbers. -/
def Config.launchParams : Params where
  columnCount := 16
  lineCount := 16
  columnOffset := 0
  lineOffset := 0
  cmdCaset := 0x2A
  cmdRaset := 0x2B
  cmdRamwr := 0x2C
  memSize := 0x1000
  textMax := .chars127
  cjkBg := .black

/-- FREE VALUE (log 7). What the register port returns for a register other than STATUS while BUSY = 1 (10_state.md R36:
"returns any value"). The argument counts such reads, so that each is a fresh draw. -/
opaque Config.busyRead : Nat → Word

/-- FREE VALUE (log 9). What the panel shows at a place once the observer is LOST (20_memory.md R70: "its image is any
value"). The first argument is the number of tokens offered so far, so that the image may change. -/
opaque Config.lostPixel : Nat → Int → Int → Option Half

end Sys2Proof
end

