-- ==== Sys2Proof/Machine/State.lean ====
section
/-! DEFINITION. The state of the block and of the three other agents of 00_scope.md R13 (host, transport, panel observer),
as plain data; the stops; and the state after reset. INVENTORY.md lists every field with its rule. -/

namespace Sys2Proof.Machine

/-- The kind of a token (20_memory.md R56). -/
inductive TokenKind where
  | cmd
  | data
  deriving DecidableEq, Repr

/-- One byte offered to the transport, tagged CMD or DATA (R56). -/
structure Token where
  kind : TokenKind
  byte : Byte
  deriving DecidableEq, Repr

/-- The transport's answer to a token (R57). -/
inductive Answer where
  /-- the token is delivered -/
  | ok
  /-- the opaque fatal failure -/
  | fail
  /-- no answer comes (60_exceptions.md R259) -/
  | never
  deriving DecidableEq, Repr

/-- What the environment does next: the transport's answer to the next token, or the host's next move lands first, wherever
the command in progress stands (10_state.md R36, 70 R270, R281: the host may read a register or reset at any time). -/
inductive Draw where
  | answer (a : Answer)
  /-- the host's next move lands here: before the command's next effect of any kind, or before its end -/
  | pause
  deriving DecidableEq, Repr

/-- A token that was offered, with the answer it got. -/
structure Offer where
  token : Token
  answer : Answer
  deriving DecidableEq, Repr

/-- STATUS.FAULT_CODE (60_exceptions.md R242); 3-15 are never produced. -/
inductive FaultCode where
  | none
  /-- code 1 -/
  | transport
  /-- code 2 -/
  | illegalCmd
  deriving DecidableEq, Repr

/-- The reasons of the verdict `undefined` (60_exceptions.md R247). PANEL_TRANSPORT is not among them: it sets no UNDEF
and stops nothing, it is the observer's `lost` flag (R70, R246). -/
inductive Verdict where
  | notReady
  | zeroRect
  | zeroBlit
  | fontConfig
  | cjkIndex
  | memRange
  | panelWindow
  | panelOverrun
  | panelShort
  | panelProtocol
  deriving DecidableEq, Repr

/-- A write of one register or register field by a command (10_state.md R37). -/
inductive RegWrite where
  | curX (v : Half)
  | curY (v : Half)
  | curColor (v : Half)
  | curCspace (v : Half)
  | curLspace (v : Half)
  | fontBase (v : Word)
  | fontW (v : Byte)
  | fontH (v : Byte)
  | cjkBase (v : Word)
  | cjkCount (v : Half)
  | packResult (v : Half)
  deriving DecidableEq, Repr

/-- One effect of a command's pseudocode, in the order R11 makes observable. -/
inductive Effect where
  /-- `Emit(kind, b)` -/
  | emit (t : Token)
  /-- `NAME <- v` -/
  | write (w : RegWrite)
  /-- `undefined(reason)` -/
  | verdict (r : Verdict)
  /-- `raise Fault(ILLEGAL_CMD)`, the one effect of a reserved opcode's frame (60_exceptions.md R244) -/
  | illegalCmd
  deriving DecidableEq, Repr

/-- Why a command in progress waits between two steps. -/
inductive Waiting where
  /-- the host's next move lands here; the command goes on after it -/
  | host
  /-- the transport never answers the token being offered (R259) -/
  | transport
  deriving DecidableEq, Repr

/-- A frame the port took: a command, or a reserved opcode (30_encoding.md R85, R86). -/
inductive PortFrame where
  | command (i : Instr)
  | reserved (opcode : Byte)
  deriving DecidableEq, Repr

/-- The sequencer's working state (10_state.md R38): the decoded frame and the effects still to come, the next one first;
the loop variables of R38 are what determines them. -/
structure Work where
  frame : PortFrame
  rest : List Effect
  waiting : Waiting
  deriving DecidableEq, Repr

/-- The observer's mode (20_memory.md R63); `col` and `row` hold the bytes received so far, oldest first. -/
inductive PanelMode where
  | idle
  | col (got : List Byte)
  | row (got : List Byte)
  | stream
  deriving DecidableEq, Repr

/-- One written pixel: its panel-local place and its color. -/
abbrev Pixel := (Int × Int) × Half

/-- The panel observer (20_memory.md R63). -/
structure Panel where
  cs : Option Half
  ce : Option Half
  rs : Option Half
  re : Option Half
  mode : PanelMode
  px : Int
  py : Int
  count : Int
  hi : Option Byte
  /-- the written pixels in raster order, no place twice; a place that is not listed is unwritten -/
  image : List Pixel
  lost : Bool
  deriving DecidableEq, Repr

/-- The observer at reset (R63). R63 gives no value for `px`, `py` and `count`: DESIGN CHOICE 0 (log 8), which
begin-memory-write replaces before anything reads them. -/
def Panel.initial : Panel where
  cs := none
  ce := none
  rs := none
  re := none
  mode := .idle
  px := 0
  py := 0
  count := 0
  hi := none
  image := []
  lost := false

/-- A move of the host (70_reset_and_hazards.md R281). -/
inductive HostMove where
  /-- present these bytes at the command port; the block takes one frame at a time from their front -/
  | send (bytes : List Byte)
  /-- read a register -/
  | read (number : Byte)
  /-- place a byte in source memory -/
  | store (addr : Word) (value : Byte)
  /-- bring-up completes: READY goes to 1 (R272) -/
  | raiseReady
  /-- assert reset -/
  | reset
  deriving DecidableEq, Repr

/-- A register read the host made: the number and the value it got (10_state.md R23). -/
structure RegRead where
  number : Byte
  value : Word
  deriving DecidableEq, Repr

/-- The machine. The first group is the register file (10_state.md R24-R34), then the verdict flag (R40) and the
sequencer's working state (R38); the rest is the environment. -/
structure State where
  /-- STATUS.BUSY -/
  busy : Bool
  /-- STATUS.READY, the bring-up input -/
  ready : Bool
  /-- STATUS.FAULT -/
  fault : Bool
  /-- STATUS.FAULT_CODE -/
  faultCode : FaultCode
  curX : Half
  curY : Half
  curColor : Half
  curCspace : Half
  curLspace : Half
  fontBase : Word
  /-- FONT_GEOM[7:0] -/
  fontW : Byte
  /-- FONT_GEOM[15:8] -/
  fontH : Byte
  cjkBase : Word
  cjkCount : Half
  packResult : Half
  /-- UNDEF (R40) -/
  undef : Option Verdict
  /-- the command in progress between two steps, if any (R38) -/
  work : Option Work
  /-- the implementation parameters (R6), constant for the run (R7) -/
  params : Params
  /-- source memory (R51): the bytes that differ from `unwrittenByte`, addresses strictly rising -/
  mem : List Host.Cell
  /-- what meets the tokens to come, and where the host's moves land among a command's effects, next first; a token past
  the end is answered ok (DESIGN CHOICE, log 4) -/
  draws : List Draw
  /-- the tokens offered so far, oldest first -/
  trace : List Offer
  /-- the panel observer (R63) -/
  panel : Panel
  /-- the host's moves to come, next first (log 5) -/
  host : List HostMove
  /-- what the register port has returned, oldest first -/
  reads : List RegRead
  /-- the model's own counter of the free values drawn by reads under BUSY = 1 (log 7) -/
  freeReads : Nat
  deriving DecidableEq, Repr

/-- Why the machine stops. -/
inductive Fault where
  /-- Raised by a step or a command when UNDEF is set: "the run stops with no further step" (60_exceptions.md R246).
  Safe: nothing is claimed of what comes after a verdict. -/
  | stopped (reason : Verdict)
  /-- Raised by a step when the transport has never answered a token and the host's next move is no read, reset or READY
  (a frame waits while BUSY = 1, R274; memory may not change then, R277): "a run with no further block step" (R259).
  Safe. -/
  | hung
  /-- Raised by a command run while BUSY = 1: the port takes no frame then (70 R274). A step never raises it: there the
  frame waits at the host. Safe. -/
  | portBusy
  /-- Raised by a step when the host would place a byte at an address at or past MEM_SIZE, which does not exist (R51).
  Safe. -/
  | noSuchByte
  deriving DecidableEq, Repr

/-- Why an instruction has no meaning in the model. -/
inductive Refusal where
  /-- Raised by an arm of `exec` for an instruction the model has no meaning for yet. Safe. No arm raises it now. -/
  | notModelled (mnemonic : String)
  deriving DecidableEq, Repr

/-- The machine as it is launched: the block right after reset (70_reset_and_hazards.md R270, R271), with the given
parameters, READY input, source memory, transport and host (20_memory.md R51, 70 R272: launch data), and the observer as
R63 gives it at reset. -/
def State.launch (p : Params) (ready : Bool) (mem : List Host.Cell) (draws : List Draw) (host : List HostMove) : State where
  busy := false
  ready := ready
  fault := false
  faultCode := .none
  curX := 0
  curY := 0
  curColor := 0
  curCspace := 0
  curLspace := 0
  fontBase := 0
  fontW := 0
  fontH := 0
  cjkBase := 0
  cjkCount := 0
  packResult := 0
  undef := none
  work := none
  params := p
  mem := mem
  draws := draws
  trace := []
  panel := Panel.initial
  host := host
  reads := []
  freeReads := 0

/-- The machine right after reset. Every register is at the value R270 states. The launch data are the model's choice:
parameters (log 1), READY = 1, bring-up having completed (log 2), no byte placed in memory (log 3), a transport that
accepts (log 4), a host that has made no move yet (log 5). -/
def State.reset : State := State.launch Config.launchParams true [] [] []

end Sys2Proof.Machine
end

