-- ==== Sys2Proof/Machine/Operands.lean ====
section
/-! DEFINITION. The arithmetic of 00_scope.md R9 and the operand forms: how arguments enter ℤ, the window sequence and the
pixel as tokens (30_encoding.md R90, R91), the data formats (R92-R94), and reads of source memory (20_memory.md R52). -/

namespace Sys2Proof.Machine

/-- `trunc_16` (R9): the two's-complement low 16 bits, of a negative value too. -/
def trunc16 (v : Int) : Half := BitVec.ofInt 16 v

/-- `tdiv(a, 2)` (R9, D8): division truncating toward zero. -/
def tdiv2 (a : Int) : Int := Int.tdiv a 2

/-- `ceil8(w)` (R9). -/
def ceil8 (w : Nat) : Nat := (w + 7) / 8

/-- A u16 argument in ℤ (30_encoding.md R82: unsigned). -/
def coord (v : Half) : Int := (v.toNat : Int)

/-- `v[15:8]`. -/
def hiByte (v : Half) : Byte := v.extractLsb' 8 8

/-- `v[7:0]`. -/
def loByte (v : Half) : Byte := v.extractLsb' 0 8

/-- A CMD token. -/
def cmdToken (b : Byte) : Token := ⟨.cmd, b⟩

/-- A DATA token. -/
def dataToken (b : Byte) : Token := ⟨.data, b⟩

/-- A u16 as two DATA tokens, most significant byte first. -/
def halfTokens (v : Half) : List Token := [dataToken (hiByte v), dataToken (loByte v)]

/-- The 11 tokens of the window sequence (30_encoding.md R90, 40_window_writer.md R110): never clamped, reordered or
checked. -/
def windowTokens (p : Params) (xs ys xe ye : Int) : List Token :=
  [cmdToken p.cmdCaset] ++ halfTokens (trunc16 (xs + coord p.columnOffset)) ++
    halfTokens (trunc16 (xe + coord p.columnOffset)) ++
  [cmdToken p.cmdRaset] ++ halfTokens (trunc16 (ys + coord p.lineOffset)) ++
    halfTokens (trunc16 (ye + coord p.lineOffset)) ++
  [cmdToken p.cmdRamwr]

/-- A pixel's two tokens (30_encoding.md R91, 40_window_writer.md R111). -/
def pixelTokens (c : Half) : List Token := halfTokens c

/-- The 13 tokens of one Plot (41_rasterizer.md R140). -/
def plotTokens (p : Params) (c : Half) (xy : Int × Int) : List Token :=
  windowTokens p xy.1 xy.2 xy.1 xy.2 ++ pixelTokens c

/-- Tokens as effects of a command. -/
def emits (ts : List Token) : List Effect := ts.map .emit

/-- Black is 0x0000 (30_encoding.md R92, D20). -/
def black : Half := 0

/-- The newline codepoint (42_glyph_text.md R187, D21). -/
def newline : Byte := 0x0A

/-- RGB565 from 8-bit channels by truncation (40_window_writer.md R115). -/
def pack565Value (r g b : Byte) : Half := r.extractLsb' 3 5 ++ g.extractLsb' 2 6 ++ b.extractLsb' 3 5

/-- `TEXT_MAX_CHARS` as a number (R6). -/
def textMaxChars : TextBound → Nat
  | .chars127 => 127
  | .chars128 => 128

/-- What a byte of source memory that nothing has placed reads as. DESIGN CHOICE (unsafe, log 3): 0, the convention of
95_test_vectors.md section 0; the spec leaves it open (R51, N9). -/
def unwrittenByte : Byte := 0

/-- One byte of source memory (20_memory.md R51). -/
def readByte : List Host.Cell → Nat → Byte
  | [], _ => unwrittenByte
  | (a, b) :: rest, addr => if a = addr then b else readByte rest addr

/-- Place one byte (the host's move, R51), keeping the canonical form: addresses strictly rising, and no entry equal to
`unwrittenByte`. -/
def writeByte : List Host.Cell → Nat → Byte → List Host.Cell
  | [], addr, v => if v = unwrittenByte then [] else [(addr, v)]
  | (a, b) :: rest, addr, v =>
    if addr < a then
      if v = unwrittenByte then (a, b) :: rest else (addr, v) :: (a, b) :: rest
    else if addr = a then
      if v = unwrittenByte then rest else (addr, v) :: rest
    else (a, b) :: writeByte rest addr v

/-- The canonical form of source memory. -/
def Memory.wf : List Host.Cell → Bool
  | [] => true
  | [(_, b)] => b != unwrittenByte
  | (a, b) :: (a', b') :: rest => decide (a < a') && b != unwrittenByte && Memory.wf ((a', b') :: rest)

/-- `MemRead(addr, n)` (R52): the bytes in increasing address order, or `none` where the spec says
`undefined(MEM_RANGE)`. Addresses are sums of unsigned values, so `addr < 0` cannot occur, and they do not wrap. -/
def memRead (s : State) (addr n : Nat) : Option (List Byte) :=
  if addr + n > s.params.memSize then none
  else some ((List.range n).map fun k => readByte s.mem (addr + k))

end Sys2Proof.Machine
end

