-- ==== Sys2Proof/Machine/Flags.lean ====
section
/-! DEFINITION. The flag-like state: STATUS and the register port's view of the registers (10_state.md R23-R36). The block
has no condition codes (R22). -/

namespace Sys2Proof.Machine

/-- One bit of a register value. -/
def flagBit (b : Bool) : BitVec 1 := if b then 1 else 0

/-- STATUS.FAULT_CODE as bits (60_exceptions.md R242). -/
def faultCodeBits : FaultCode → BitVec 4
  | .none => 0
  | .transport => 1
  | .illegalCmd => 2

/-- STATUS (10_state.md R24): FAULT_CODE in [11:8], FAULT in [2], READY in [1], BUSY in [0]; every other bit reads 0. -/
def statusWord (s : State) : Word :=
  (0 : BitVec 20) ++ faultCodeBits s.faultCode ++ (0 : BitVec 5) ++ flagBit s.fault ++ flagBit s.ready ++ flagBit s.busy

/-- FONT_GEOM (10_state.md R31): FONT_H in [15:8], FONT_W in [7:0]. -/
def fontGeomWord (s : State) : Word := (0 : Half) ++ (s.fontH ++ s.fontW : Half)

/-- A 16-bit register on the 32-bit port. -/
def portHalf (v : Half) : Word := (0 : Half) ++ v

/-- The register map (10_state.md R23, R35): the value each register number defines while BUSY = 0. -/
def registerValue (s : State) (number : Byte) : Word :=
  match number.toNat with
  | 0x00 => statusWord s
  | 0x01 => portHalf s.curX
  | 0x02 => portHalf s.curY
  | 0x03 => portHalf s.curColor
  | 0x04 => portHalf s.curCspace
  | 0x05 => portHalf s.curLspace
  | 0x06 => s.fontBase
  | 0x07 => fontGeomWord s
  | 0x08 => s.cjkBase
  | 0x09 => portHalf s.cjkCount
  | 0x0A => portHalf s.packResult
  | _ => 0

/-- What the port returns (R36): the register's value while BUSY = 0 or for STATUS; otherwise any value. A reserved number
returns 0 at all times (R35 gives it no other value). -/
def readRegister (s : State) (number : Byte) : Word :=
  if s.busy && decide (1 ≤ number.toNat) && decide (number.toNat ≤ 0x0A) then Config.busyRead s.freeReads
  else registerValue s number

/-- A read that draws a free value. -/
def readIsFree (s : State) (number : Byte) : Bool :=
  s.busy && decide (1 ≤ number.toNat) && decide (number.toNat ≤ 0x0A)

end Sys2Proof.Machine
end

