-- ==== Sys2Proof/Machine/Observer.lean ====
section
/-! DEFINITION. The panel observer (20_memory.md R63-R70): what an accepted token does to the reference panel. -/

namespace Sys2Proof.Machine

/-- `a` comes before `b` in raster order: top to bottom, left to right within a row (R12). -/
def rasterBefore (a b : Int × Int) : Bool := decide (a.2 < b.2) || (decide (a.2 = b.2) && decide (a.1 < b.1))

/-- The color at a place of the image, or unwritten (R63). -/
def imageGet : List Pixel → Int × Int → Option Half
  | [], _ => none
  | (q, c) :: rest, xy => if q = xy then some c else imageGet rest xy

/-- Write one pixel; a write on a written place replaces it (R67). Keeps raster order and no place twice. -/
def imageSet : List Pixel → Int × Int → Half → List Pixel
  | [], xy, c => [(xy, c)]
  | (q, d) :: rest, xy, c =>
    if rasterBefore xy q then (xy, c) :: (q, d) :: rest
    else if xy = q then (xy, c) :: rest
    else (q, d) :: imageSet rest xy c

/-- The canonical form of an image. -/
def Image.wf : List Pixel → Bool
  | [] => true
  | [_] => true
  | (q, _) :: (q', d) :: rest => rasterBefore q q' && Image.wf ((q', d) :: rest)

/-- How many pixels the window holds, in ℤ (R67); 0 while it is not set. -/
def windowSize (q : Panel) : Int :=
  match q.cs, q.ce, q.rs, q.re with
  | some cs, some ce, some rs, some re => (coord ce - coord cs + 1) * (coord re - coord rs + 1)
  | _, _, _, _ => 0

/-- The range check of begin-memory-write (R66), on the offset values. -/
def windowInRange (p : Params) (cs ce rs re : Half) : Bool :=
  decide (coord p.columnOffset ≤ coord cs) && decide (coord cs ≤ coord ce) &&
  decide (coord ce ≤ coord p.columnOffset + coord p.columnCount - 1) &&
  decide (coord p.lineOffset ≤ coord rs) && decide (coord rs ≤ coord re) &&
  decide (coord re ≤ coord p.lineOffset + coord p.lineCount - 1)

/-- Begin memory write (R66). -/
def beginStream (p : Params) (q : Panel) : Except Verdict Panel :=
  match q.cs, q.ce, q.rs, q.re with
  | some cs, some ce, some rs, some re =>
    if windowInRange p cs ce rs re then
      .ok { q with px := coord cs, py := coord rs, count := 0, hi := none, mode := .stream }
    else .error .panelWindow
  | _, _, _, _ => .error .panelWindow

/-- A command byte while no stream or range is open (R64, R65, R66, R69). -/
def observeCommand (p : Params) (b : Byte) (q : Panel) : Except Verdict Panel :=
  if b = p.cmdCaset then .ok { q with mode := .col [] }
  else if b = p.cmdRaset then .ok { q with mode := .row [] }
  else if b = p.cmdRamwr then beginStream p q
  else .error .panelProtocol

/-- A CMD token (R64-R66, R68, R69). -/
def observeCmd (p : Params) (b : Byte) (q : Panel) : Except Verdict Panel :=
  match q.mode with
  | .idle => observeCommand p b q
  | .col _ => .error .panelProtocol
  | .row _ => .error .panelProtocol
  | .stream =>
    if q.count < windowSize q ∨ q.hi ≠ none then .error .panelShort
    else observeCommand p b q

/-- Where the write pointer goes after a pixel (R67): right, wrapping at the window's last column. -/
def advancePointer (q : Panel) : Int × Int :=
  if q.px + 1 > coord (q.ce.getD 0) then (coord (q.cs.getD 0), q.py + 1) else (q.px + 1, q.py)

/-- The second byte of a pixel (R67). -/
def writePanelPixel (p : Params) (hi lo : Byte) (q : Panel) : Except Verdict Panel :=
  if q.count = windowSize q then .error .panelOverrun
  else
    .ok { q with
      image := imageSet q.image (q.px - coord p.columnOffset, q.py - coord p.lineOffset) (hi ++ lo)
      count := q.count + 1
      hi := none
      px := (advancePointer q).1
      py := (advancePointer q).2 }

/-- A DATA token (R64, R65, R67, R69). -/
def observeData (p : Params) (b : Byte) (q : Panel) : Except Verdict Panel :=
  match q.mode with
  | .idle => .error .panelProtocol
  | .col [b0, b1, b2] => .ok { q with cs := some (b0 ++ b1), ce := some (b2 ++ b), mode := .idle }
  | .col got => .ok { q with mode := .col (got ++ [b]) }
  | .row [b0, b1, b2] => .ok { q with rs := some (b0 ++ b1), re := some (b2 ++ b), mode := .idle }
  | .row got => .ok { q with mode := .row (got ++ [b]) }
  | .stream =>
    match q.hi with
    | none => .ok { q with hi := some b }
    | some hi => writePanelPixel p hi b q

/-- An accepted token at the observer. Once LOST, "it checks no further token" (R70). -/
def observe (p : Params) (t : Token) (q : Panel) : Except Verdict Panel :=
  if q.lost then .ok q
  else
    match t.kind with
    | .cmd => observeCmd p t.byte q
    | .data => observeData p t.byte q

/-- The observer over accepted tokens in order; it stops at the first verdict. -/
def observeAll (p : Params) : List Token → Panel → Except Verdict Panel
  | [], q => .ok q
  | t :: ts, q =>
    match observe p t q with
    | .ok q' => observeAll p ts q'
    | .error r => .error r

/-- What the panel shows at a panel-local place (R63, R70): any value once LOST (log 9). -/
def panelPixel (s : State) (x y : Int) : Option Half :=
  if s.panel.lost then Config.lostPixel s.trace.length x y else imageGet s.panel.image (x, y)

end Sys2Proof.Machine
end

