-- ==== Sys2Proof/Machine/Ops.lean ====
section
/-! DEFINITION. The named operations over the state: register writes, the end of a command, the hardware fault and the
verdict (60_exceptions.md R241, R246), reset (70 R270), Emit (20_memory.md R57), running a command's effects in order,
dispatch (R249), and the host's moves (70 R281). -/

namespace Sys2Proof.Machine

/-- A register write (10_state.md R23-R34, R37). -/
def writeRegister : RegWrite → State → State
  | .curX v, s => { s with curX := v }
  | .curY v, s => { s with curY := v }
  | .curColor v, s => { s with curColor := v }
  | .curCspace v, s => { s with curCspace := v }
  | .curLspace v, s => { s with curLspace := v }
  | .fontBase v, s => { s with fontBase := v }
  | .fontW v, s => { s with fontW := v }
  | .fontH v, s => { s with fontH := v }
  | .cjkBase v, s => { s with cjkBase := v }
  | .cjkCount v, s => { s with cjkCount := v }
  | .packResult v, s => { s with packResult := v }

/-- The end of a command: BUSY <- 0 (R249 step 5), and the working state is discarded (10_state.md R38). -/
def endCommand (s : State) : State := { s with busy := false, work := none }

/-- TAKING A FAULT, `raise Fault(code)` (60_exceptions.md R241): the first code stays, FAULT is set, the command is
aborted with nothing rolled back, BUSY <- 0. There is no handler, no saved program counter and no return (R241, R251). -/
def raiseFault (code : FaultCode) (s : State) : State :=
  endCommand { s with faultCode := if s.fault then s.faultCode else code, fault := true }

/-- THE VERDICT, `undefined(reason)` (R246, 10_state.md R40): UNDEF is set and the command ends (R24: BUSY is 1 to the end
of its command, "normal end, Fault or verdict"). It reports nothing: FAULT and FAULT_CODE stay. Once set, UNDEF and its
reason stay. -/
def setUndef (reason : Verdict) (s : State) : State :=
  endCommand { s with undef := if s.undef.isSome then s.undef else some reason }

/-- RESET of the block (70_reset_and_hazards.md R270): every register takes its reset value, a command in progress is
abandoned, no token is offered; the panel, source memory, the READY input and UNDEF are not touched. -/
def resetBlock (s : State) : State :=
  { s with
    busy := false
    fault := false
    faultCode := .none
    curX := 0
    curY := 0
    curColor := 0
    curCspace := 0
    curLspace := 0
    fontBase := 0
    fontW := 0
    fontH := 0
    cjkBase := 0
    cjkCount := 0
    packResult := 0
    work := none }

/-- What meets the next token: the next draw, or `ok` where none is listed (log 4). -/
def nextDraw (s : State) : Draw := s.draws.headD (.answer .ok)

/-- The next draw is used up. -/
def dropDraw (s : State) : State := { s with draws := s.draws.tail }

/-- The token is offered and gets its answer (20_memory.md R57, R58). -/
def record (t : Token) (a : Answer) (s : State) : State :=
  { s with draws := s.draws.tail, trace := s.trace ++ [⟨t, a⟩] }

/-- The observer after an accepted token. -/
def showPanel (q : Panel) (s : State) : State := { s with panel := q }

/-- The observer after a transport failure: LOST (20_memory.md R70). -/
def losePanel (s : State) : State := { s with panel := { s.panel with lost := true } }

/-- A frame's execution that cannot go on in this step: BUSY stays 1, and the working state is kept (10_state.md R38). -/
def suspend (f : PortFrame) (rest : List Effect) (w : Waiting) (s : State) : State :=
  { s with busy := true, work := some ⟨f, rest, w⟩ }

/-- Go on with `k`, unless the host's next move lands here, before the effects `rest` (70 R270, R281: at any time). -/
def unlessPaused (f : PortFrame) (rest : List Effect) (k : State → State) (s : State) : State :=
  match nextDraw s with
  | .pause => suspend f rest .host (dropDraw s)
  | .answer _ => k s

/-- Run a frame's effects from the first on (00_scope.md R10, R11). A register write is made in its place; a verdict or an
illegal command ends the frame's execution; a token is offered and met by the next draw:
`ok` delivers it to the observer, whose verdict would stop the run; `fail` raises Fault(TRANSPORT) there and loses the
observer's image (R57, R70, R243); without an answer the command never ends (R259). The draw `pause` lets the host's next
move land before the next effect of any kind, and before the end. -/
def runEffects (f : PortFrame) : List Effect → State → State
  | [], s => unlessPaused f [] endCommand s
  | .write w :: rest, s => unlessPaused f (.write w :: rest) (fun s => runEffects f rest (writeRegister w s)) s
  | .verdict r :: rest, s => unlessPaused f (.verdict r :: rest) (setUndef r) s
  | .illegalCmd :: rest, s => unlessPaused f (.illegalCmd :: rest) (raiseFault .illegalCmd) s
  | .emit t :: rest, s =>
    match nextDraw s with
    | .answer .ok =>
      match observe s.params t s.panel with
      | .ok q => runEffects f rest (showPanel q (record t .ok s))
      | .error r => setUndef r (record t .ok s)
    | .answer .fail => raiseFault .transport (losePanel (record t .fail s))
    | .answer .never => suspend f (.emit t :: rest) .transport (record t .never s)
    | .pause => suspend f (.emit t :: rest) .host (dropDraw s)

/-- Dispatch of an accepted frame (60_exceptions.md R249), as effects: the first of the steps that applies. `own` is step 3
for a reserved opcode, step 4 for a command. -/
def dispatchEffects (own : List Effect) (s : State) : List Effect :=
  if s.fault then []
  else if s.ready then own
  else [.verdict .notReady]

/-- A frame at the port: no step follows a verdict (R246), and the port takes a frame only while BUSY = 0 (70 R274). Then
BUSY <- 1, and the frame's effects are run as its pseudocode gives them at the state it starts in (source memory does not
change while a command runs, R51). -/
def accept (f : PortFrame) (own : State → List Effect) (s : State) : Host.Outcome State Fault Refusal :=
  match s.undef with
  | some r => .fault (.stopped r)
  | none =>
    if s.busy then .fault .portBusy
    else .next (runEffects f (dispatchEffects (own s) s) { s with busy := true })

/-- A command: its effects, run after dispatch. -/
def runCommand (i : Instr) (effects : State → List Effect) (s : State) : Host.Outcome State Fault Refusal :=
  accept (.command i) effects s

/-- A frame with a reserved opcode (30_encoding.md R86, 60_exceptions.md R244). -/
def runReserved (opcode : Byte) (s : State) : Host.Outcome State Fault Refusal :=
  accept (.reserved opcode) (fun _ => [.illegalCmd]) s

/-- The command in progress goes on where it waited. -/
def resume (s : State) : State :=
  match s.work with
  | some w => runEffects w.frame w.rest s
  | none => endCommand s

/-- The host reads a register (10_state.md R23, R36): no side effect on the block. -/
def portRead (number : Byte) (s : State) : State :=
  { s with
    reads := s.reads ++ [⟨number, readRegister s number⟩]
    freeReads := if readIsFree s number then s.freeReads + 1 else s.freeReads }

/-- The host places a byte in source memory (20_memory.md R51). -/
def placeByte (addr : Word) (value : Byte) (s : State) : Host.Outcome State Fault Refusal :=
  if addr.toNat < s.params.memSize then .next { s with mem := writeByte s.mem addr.toNat value }
  else .fault .noSuchByte

/-- Bring-up completes (70 R272); READY stays 1 from then on. -/
def raiseReady (s : State) : State := { s with ready := true }

/-- The host's moves to come. -/
def withHost (moves : List HostMove) (s : State) : State := { s with host := moves }

/-- The host's moves after the block took one frame from the bytes presented: what is left of them stays presented. -/
def afterFrame (left : List Byte) (moves : List HostMove) : List HostMove :=
  if left.isEmpty then moves else .send left :: moves

/-- The port while BUSY = 0: the first frame of the bytes presented is executed (30_encoding.md R88). Bytes that are no
complete frame are never executed: the move is dropped (log 5). `run` is `exec`. -/
def takeFrame (run : Instr → State → Host.Outcome State Fault Refusal) (bytes : List Byte) (moves : List HostMove)
    (s : State) : Host.Outcome State Fault Refusal :=
  match decode bytes with
  | .command i left => run i (withHost (afterFrame left moves) s)
  | .reserved opcode left => runReserved opcode (withHost (afterFrame left moves) s)
  | .incomplete => .next (withHost moves s)

/-- One step while the block is idle (BUSY = 0): the host's next move. With none, the block stays idle and "all registers
keep their values" (60_exceptions.md R257). -/
def stepIdle (run : Instr → State → Host.Outcome State Fault Refusal) (s : State) : Host.Outcome State Fault Refusal :=
  match s.host with
  | [] => .next s
  | .send bytes :: moves => takeFrame run bytes moves s
  | .read number :: moves => .next (portRead number (withHost moves s))
  | .store addr value :: moves => placeByte addr value (withHost moves s)
  | .raiseReady :: moves => .next (raiseReady (withHost moves s))
  | .reset :: moves => .next (resetBlock (withHost moves s))

/-- One step while a command waits for the host's move: a read, READY or a reset lands (70 R270, R281), and the command
goes on unless it was reset. A frame or a change of memory waits for BUSY = 0 (R274, R277), so the command goes on
first. -/
def stepPaused (s : State) : State :=
  match s.host with
  | .read number :: moves => resume (portRead number (withHost moves s))
  | .raiseReady :: moves => resume (raiseReady (withHost moves s))
  | .reset :: moves => resetBlock (withHost moves s)
  | _ => resume s

/-- One step while the transport does not answer (60_exceptions.md R259): the block takes no step; only a read, READY or a
reset of the host can land. -/
def stepHung (s : State) : Host.Outcome State Fault Refusal :=
  match s.host with
  | .read number :: moves => .next (portRead number (withHost moves s))
  | .raiseReady :: moves => .next (raiseReady (withHost moves s))
  | .reset :: moves => .next (resetBlock (withHost moves s))
  | _ => .fault .hung

/-- One step of the machine (00_scope.md R13), `run` being `exec`: none after a verdict (R246); otherwise by what the
block is doing. -/
def machineStep (run : Instr → State → Host.Outcome State Fault Refusal) (s : State) :
    Host.Outcome State Fault Refusal :=
  match s.undef with
  | some r => .fault (.stopped r)
  | none =>
    if s.busy then
      match s.work with
      | some ⟨_, _, .transport⟩ => stepHung s
      | some ⟨_, _, .host⟩ => .next (stepPaused s)
      | none => .next (stepPaused s)
    else stepIdle run s

/-- Present a frame as the host's very next move. -/
def presentFrame (bytes : List Byte) (s : State) : State := { s with host := .send bytes :: s.host }

end Sys2Proof.Machine
end

