-- ==== Sys2Proof/Machine/Cjk.lean ====
section
/-! DEFINITION. CJK glyphs: SET_CJK_TABLE and DRAW_CJK (42_glyph_text.md R190-R192, 30_encoding.md R94). -/

namespace Sys2Proof.Machine

/-- Bit `b` of byte `k` of a CJK entry. -/
def cjkBit (entry : List Byte) (k b : Nat) : Bool := (entry.getD k 0).getLsbD b

/-- `CjkPixelPos(k, b)` as (column, row) (30_encoding.md R94). -/
def cjkPixelPos (k b : Nat) : Nat × Nat := (k % 16, 8 * (k / 16) + b)

/-- `CjkPixel(B, row, col)` (R190). -/
def cjkPixel (entry : List Byte) (row col : Nat) : Bool := cjkBit entry (16 * (row / 8) + col) (row % 8)

/-- The 32 bytes of an entry (R192); `none` is `undefined(MEM_RANGE)`. -/
def cjkEntry (s : State) (index : Half) : Option (List Byte) := memRead s (s.cjkBase.toNat + 32 * index.toNat) 32

/-- The cell's 256 colors in raster order (R192, BLACK). -/
def cjkColors (entry : List Byte) (c : Half) : List Half :=
  (List.range 16).flatMap fun row => (List.range 16).map fun col => if cjkPixel entry row col then c else black

/-- The set bits' places in the source's sweep order, byte 0..31 and bit 0..7 (R192, TRANSPARENT). -/
def cjkPoints (entry : List Byte) (x y : Int) : List (Int × Int) :=
  (List.range 32).flatMap fun k =>
    ((List.range 8).filter fun b => cjkBit entry k b).map fun b =>
      (x + ((cjkPixelPos k b).1 : Int), y + ((cjkPixelPos k b).2 : Int))

/-- DRAW_CJK's tokens for an entry (R192), by `CJK_BG_MODE`. -/
def cjkTokens (p : Params) (entry : List Byte) (x y c : Half) : List Token :=
  match p.cjkBg with
  | .black =>
    windowTokens p (coord x) (coord y) (coord x + 15) (coord y + 15) ++ (cjkColors entry c).flatMap pixelTokens
  | .transparent => (cjkPoints entry (coord x) (coord y)).flatMap (plotTokens p c)

/-- SET_CJK_TABLE (R191). -/
def setCjkTableEffects (base : Word) (count : Half) : List Effect :=
  [.write (.cjkBase base), .write (.cjkCount count)]

/-- DRAW_CJK (R192): CJK_INDEX, then MEM_RANGE, both before any token. -/
def drawCjkEffects (x y index c : Half) (s : State) : List Effect :=
  if index.toNat ≥ s.cjkCount.toNat then [.verdict .cjkIndex]
  else
    match cjkEntry s index with
    | none => [.verdict .memRange]
    | some entry => emits (cjkTokens s.params entry x y c)

def execSetCjkTable (base : Word) (count : Half) (s : State) : Host.Outcome State Fault Refusal :=
  runCommand (.setCjkTable base count) (fun _ => setCjkTableEffects base count) s

def execDrawCjk (x y index c : Half) (s : State) : Host.Outcome State Fault Refusal :=
  runCommand (.drawCjk x y index c) (drawCjkEffects x y index c) s

end Sys2Proof.Machine
end

