-- ==== Sys2Proof/Machine/Raster.lean ====
section
/-! DEFINITION. The rasterizer: DRAW_PIXEL, DRAW_LINE, DRAW_CIRCLE, DRAW_TRIANGLE, DRAW_RECT (41_rasterizer.md). The
algorithms give the points in plot order, in ℤ; each point is one Plot (R140). -/

namespace Sys2Proof.Machine

/-- The Plots of these points, in order (R140). -/
def plots (p : Params) (c : Half) (points : List (Int × Int)) : List Effect := emits (points.flatMap (plotTokens p c))

/-- The variables of `Line` that do not change in its loop (R142, 10_state.md R38). -/
structure LineVars where
  dx : Int
  dy : Int
  sx : Int
  sy : Int
  x1 : Int
  y1 : Int
  deriving DecidableEq, Repr

/-- `Line`'s set-up (R142). `sx` is -1 where `x0 = x1`, and likewise `sy`. -/
def lineVars (x0 y0 x1 y1 : Int) : LineVars where
  dx := |x1 - x0|
  dy := |y1 - y0|
  sx := if x0 < x1 then 1 else -1
  sy := if y0 < y1 then 1 else -1
  x1 := x1
  y1 := y1

/-- The initial error (R142, D7, D8). -/
def lineErr (v : LineVars) : Int := tdiv2 (if v.dx > v.dy then v.dx else -v.dy)

/-- `Line`'s loop (R142): plot, stop at the endpoint, else step; both tests read the snapshot `err` (D9). The first argument
bounds the iterations. -/
def lineLoop (v : LineVars) : Nat → Int → Int → Int → List (Int × Int)
  | 0, _, _, _ => []
  | n + 1, x, y, err =>
    (x, y) ::
      if x = v.x1 ∧ y = v.y1 then []
      else
        lineLoop v n
          (if err > -v.dx then x + v.sx else x)
          (if err < v.dy then y + v.sy else y)
          ((if err > -v.dx then err - v.dy else err) + (if err < v.dy then v.dx else 0))

/-- A bound on the iterations that does not cut the loop short (R144.1 needs max(dx, dy) + 1). -/
def lineFuel (v : LineVars) : Nat := (v.dx + v.dy + 1).toNat

/-- The points of `Line` in plot order (R142). -/
def linePoints (x0 y0 x1 y1 : Int) : List (Int × Int) :=
  lineLoop (lineVars x0 y0 x1 y1) (lineFuel (lineVars x0 y0 x1 y1)) x0 y0 (lineErr (lineVars x0 y0 x1 y1))

/-- The eight reflections of one circle step, in the order of R145 (D11). -/
def octants (x0 y0 x y : Int) : List (Int × Int) :=
  [(x0 + x, y0 + y), (x0 + y, y0 + x), (x0 - y, y0 + x), (x0 - x, y0 + y),
   (x0 - x, y0 - y), (x0 - y, y0 - x), (x0 + y, y0 - x), (x0 + x, y0 - y)]

/-- `y` and `err` after the first test of a circle step (R145): it uses the new `y`. -/
def circleFirst (y err : Int) : Int × Int := if err ≤ 0 then (y + 1, err + 2 * (y + 1) + 1) else (y, err)

/-- `x` and `err` after the second test (R145): it uses the new `x` and the `err` just updated (D10). -/
def circleSecond (x err : Int) : Int × Int := if err > 0 then (x - 1, err - (2 * (x - 1) + 1)) else (x, err)

/-- `Circle`'s loop (R145). The first argument bounds the iterations. -/
def circleLoop (x0 y0 : Int) : Nat → Int → Int → Int → List (Int × Int)
  | 0, _, _, _ => []
  | n + 1, x, y, err =>
    if x ≥ y then
      octants x0 y0 x y ++
        circleLoop x0 y0 n (circleSecond x (circleFirst y err).2).1 (circleFirst y err).1
          (circleSecond x (circleFirst y err).2).2
    else []

/-- A bound on the iterations that does not cut the loop short (R147.1: `x - y` falls by at least 1 each step). -/
def circleFuel (r : Half) : Nat := r.toNat + 2

/-- The points of `Circle` in plot order (R145). -/
def circlePoints (x0 y0 : Int) (r : Half) : List (Int × Int) := circleLoop x0 y0 (circleFuel r) (coord r) 0 0

/-- The points of the triangle outline (R148, D12). -/
def trianglePoints (x0 y0 x1 y1 x2 y2 : Int) : List (Int × Int) :=
  linePoints x0 y0 x1 y1 ++ linePoints x1 y1 x2 y2 ++ linePoints x2 y2 x0 y0

/-- The points of the rectangle outline A→B→C→D→A (R149, D13), for a size of at least 1 by 1. -/
def rectPoints (x0 y0 w h : Int) : List (Int × Int) :=
  linePoints x0 y0 (x0 + w - 1) y0 ++
  linePoints (x0 + w - 1) y0 (x0 + w - 1) (y0 + h - 1) ++
  linePoints (x0 + w - 1) (y0 + h - 1) x0 (y0 + h - 1) ++
  linePoints x0 (y0 + h - 1) x0 y0

/-- DRAW_PIXEL (R141). -/
def drawPixelEffects (x y c : Half) (s : State) : List Effect := plots s.params c [(coord x, coord y)]

/-- DRAW_LINE (R143). -/
def drawLineEffects (x0 y0 x1 y1 c : Half) (s : State) : List Effect :=
  plots s.params c (linePoints (coord x0) (coord y0) (coord x1) (coord y1))

/-- DRAW_CIRCLE (R146). -/
def drawCircleEffects (x0 y0 r c : Half) (s : State) : List Effect :=
  plots s.params c (circlePoints (coord x0) (coord y0) r)

/-- DRAW_TRIANGLE (R148). -/
def drawTriangleEffects (x0 y0 x1 y1 x2 y2 c : Half) (s : State) : List Effect :=
  plots s.params c (trianglePoints (coord x0) (coord y0) (coord x1) (coord y1) (coord x2) (coord y2))

/-- DRAW_RECT (R149): a zero size is `undefined(ZERO_RECT)` before any token. -/
def drawRectEffects (x0 y0 w h c : Half) (s : State) : List Effect :=
  if w = 0 ∨ h = 0 then [.verdict .zeroRect]
  else plots s.params c (rectPoints (coord x0) (coord y0) (coord w) (coord h))

def execDrawPixel (x y c : Half) (s : State) : Host.Outcome State Fault Refusal :=
  runCommand (.drawPixel x y c) (drawPixelEffects x y c) s

def execDrawLine (x0 y0 x1 y1 c : Half) (s : State) : Host.Outcome State Fault Refusal :=
  runCommand (.drawLine x0 y0 x1 y1 c) (drawLineEffects x0 y0 x1 y1 c) s

def execDrawCircle (x0 y0 r c : Half) (s : State) : Host.Outcome State Fault Refusal :=
  runCommand (.drawCircle x0 y0 r c) (drawCircleEffects x0 y0 r c) s

def execDrawTriangle (x0 y0 x1 y1 x2 y2 c : Half) (s : State) : Host.Outcome State Fault Refusal :=
  runCommand (.drawTriangle x0 y0 x1 y1 x2 y2 c) (drawTriangleEffects x0 y0 x1 y1 x2 y2 c) s

def execDrawRect (x0 y0 w h c : Half) (s : State) : Host.Outcome State Fault Refusal :=
  runCommand (.drawRect x0 y0 w h c) (drawRectEffects x0 y0 w h c) s

end Sys2Proof.Machine
end

