-- ==== Sys2Proof/Machine/Text.lean ====
section
/-! DEFINITION. The Latin glyph decoder and the text layout engine: SET_FONT, SET_CURSOR_POS, SET_CURSOR_STYLE, PUT_CHAR,
PUT_STRING (42_glyph_text.md R180-R189). -/

namespace Sys2Proof.Machine

/-- `FontValid` (R180). -/
def fontValid (s : State) : Bool :=
  decide (1 ≤ s.fontW.toNat) && decide (s.fontW.toNat ≤ Config.fontWMax) && decide (1 ≤ s.fontH.toNat)

/-- `bpr`, bytes per glyph row (R181, 30_encoding.md R93). -/
def bytesPerRow (s : State) : Nat := ceil8 s.fontW.toNat

/-- `bpg`, bytes per glyph (R181). -/
def bytesPerGlyph (s : State) : Nat := bytesPerRow s * s.fontH.toNat

/-- Printable: 32..127 inclusive (R181, C7). -/
def printable (ch : Byte) : Bool := decide (32 ≤ ch.toNat) && decide (ch.toNat ≤ 127)

/-- The address of a printable codepoint's glyph (R181). -/
def glyphAddr (s : State) (ch : Byte) : Nat := s.fontBase.toNat + (ch.toNat - 32) * bytesPerGlyph s

/-- `Decode`'s slice for a printable codepoint (R181); `none` is `undefined(MEM_RANGE)`. -/
def glyphBytes (s : State) (ch : Byte) : Option (List Byte) := memRead s (glyphAddr s ch) (bytesPerGlyph s)

/-- `GlyphPixel` (R182). -/
def glyphPixel (s : State) (g : List Byte) (r c : Nat) : Bool := (g.getD (r * bytesPerRow s + c / 8) 0).getLsbD (c % 8)

/-- The color of a glyph's pixel (R187): 1 is the cursor color, 0 is black. -/
def glyphColor (s : State) (g : List Byte) (r c : Nat) : Half := if glyphPixel s g r c then s.curColor else black

/-- A glyph's pixels in raster order (R187): `FONT_H` rows of `FONT_W`. -/
def glyphColors (s : State) (g : List Byte) : List Half :=
  (List.range s.fontH.toNat).flatMap fun r => (List.range s.fontW.toNat).map fun c => glyphColor s g r c

/-- The line `LineAdvance` moves to (R186, D48): compared in ℤ, wrapping to the top. -/
def advanceLine (s : State) (y : Half) : Half :=
  if y.toNat + s.fontH.toNat + s.curLspace.toNat + s.fontH.toNat > s.params.lineCount.toNat then 0
  else BitVec.ofNat 16 (y.toNat + s.fontH.toNat + s.curLspace.toNat)

/-- `LineAdvance` as its two writes (R186). -/
def lineAdvance (s : State) (y : Half) : List Effect := [.write (.curX 0), .write (.curY (advanceLine s y))]

/-- The wrap test (R187): `CUR_X + FONT_W + CUR_CSPACE > COLUMN_COUNT`, untruncated (10_state.md R25). -/
def wraps (s : State) (x : Half) : Bool :=
  decide (x.toNat + s.fontW.toNat + s.curCspace.toNat > s.params.columnCount.toNat)

/-- Where a printable character is drawn (R187): at the cursor, or after a line advance. -/
def drawAt (s : State) (x y : Half) : Half × Half := if wraps s x then (0, advanceLine s y) else (x, y)

/-- `CUR_X` after a printable character drawn at column `x` (R187): stored as `trunc_16`. -/
def columnAfter (s : State) (x : Half) : Half := BitVec.ofNat 16 (x.toNat + s.fontW.toNat + s.curCspace.toNat)

/-- A glyph drawn at a place: its window, exactly `FONT_W × FONT_H` pixels, and the cursor's advance (R187). -/
def drawGlyph (s : State) (g : List Byte) (x y : Half) : List Effect :=
  emits (windowTokens s.params (coord x) (coord y) (coord x + s.fontW.toNat - 1) (coord y + s.fontH.toNat - 1)) ++
  emits ((glyphColors s g).flatMap pixelTokens) ++
  [.write (.curX (columnAfter s x))]

/-- `PutChar(ch)` with the cursor at `(x, y)` (R187): its effects. Newline first, then the printable test, then the glyph's
read, then the wrap (C1). -/
def putCharEffects (s : State) (x y : Half) (ch : Byte) : List Effect :=
  if ch = newline then lineAdvance s y
  else if printable ch then
    match glyphBytes s ch with
    | none => [.verdict .memRange]
    | some g => (if wraps s x then lineAdvance s y else []) ++ drawGlyph s g (drawAt s x y).1 (drawAt s x y).2
  else []

/-- The cursor after `PutChar(ch)` where it comes to its end (R187). -/
def cursorAfter (s : State) (x y : Half) (ch : Byte) : Half × Half :=
  if ch = newline then (0, advanceLine s y)
  else if printable ch then (columnAfter s (drawAt s x y).1, (drawAt s x y).2)
  else (x, y)

/-- `PutChar` over a string, in input order (R187, R189), from the cursor `(x, y)`. -/
def putCharsEffects (s : State) : Half → Half → List Byte → List Effect
  | _, _, [] => []
  | x, y, ch :: rest =>
    putCharEffects s x y ch ++ putCharsEffects s (cursorAfter s x y ch).1 (cursorAfter s x y ch).2 rest

/-- How many bytes PUT_STRING consumes (R189). -/
def stringCount (s : State) (len : Half) : Nat := min len.toNat (textMaxChars s.params.textMax)

/-- SET_FONT (R183): no check here. -/
def setFontEffects (base : Word) (fw fh : Byte) : List Effect :=
  [.write (.fontBase base), .write (.fontW fw), .write (.fontH fh)]

/-- SET_CURSOR_POS (R184). -/
def setCursorPosEffects (x y : Half) : List Effect := [.write (.curX x), .write (.curY y)]

/-- SET_CURSOR_STYLE (R185). -/
def setCursorStyleEffects (c cspace lspace : Half) : List Effect :=
  [.write (.curColor c), .write (.curCspace cspace), .write (.curLspace lspace)]

/-- PUT_CHAR (R188): FONT_CONFIG first (R180). -/
def putCharCommandEffects (ch : Byte) (s : State) : List Effect :=
  if fontValid s then putCharEffects s s.curX s.curY ch else [.verdict .fontConfig]

/-- PUT_STRING (R189): FONT_CONFIG first, then the whole string's read, then the characters. -/
def putStringEffects (addr : Word) (len : Half) (s : State) : List Effect :=
  if fontValid s then
    match memRead s addr.toNat (stringCount s len) with
    | none => [.verdict .memRange]
    | some chars => putCharsEffects s s.curX s.curY chars
  else [.verdict .fontConfig]

def execSetFont (base : Word) (fw fh : Byte) (s : State) : Host.Outcome State Fault Refusal :=
  runCommand (.setFont base fw fh) (fun _ => setFontEffects base fw fh) s

def execSetCursorPos (x y : Half) (s : State) : Host.Outcome State Fault Refusal :=
  runCommand (.setCursorPos x y) (fun _ => setCursorPosEffects x y) s

def execSetCursorStyle (c cspace lspace : Half) (s : State) : Host.Outcome State Fault Refusal :=
  runCommand (.setCursorStyle c cspace lspace) (fun _ => setCursorStyleEffects c cspace lspace) s

def execPutChar (ch : Byte) (s : State) : Host.Outcome State Fault Refusal :=
  runCommand (.putChar ch) (putCharCommandEffects ch) s

def execPutString (addr : Word) (len : Half) (s : State) : Host.Outcome State Fault Refusal :=
  runCommand (.putString addr len) (putStringEffects addr len) s

end Sys2Proof.Machine
end

