-- ==== Sys2Proof/Machine/Window.lean ====
section
/-! DEFINITION. The pixel window writer: NOP, SET_WINDOW, WRITE_PIXEL, PACK565 (40_window_writer.md) and BLIT
(43_image_blit.md). Each `…Effects` is the command's pseudocode; each `exec…` runs it after dispatch. -/

namespace Sys2Proof.Machine

/-- NOP (R112): no effect. -/
def nopEffects : List Effect := []

/-- SET_WINDOW (R113): the window sequence, as computed. -/
def setWindowEffects (xs ys xe ye : Half) (s : State) : List Effect :=
  emits (windowTokens s.params (coord xs) (coord ys) (coord xe) (coord ye))

/-- WRITE_PIXEL (R114): the color's two bytes. -/
def writePixelEffects (c : Half) : List Effect := emits (pixelTokens c)

/-- PACK565 (R115). -/
def pack565Effects (r g b : Byte) : List Effect := [.write (.packResult (pack565Value r g b))]

/-- BLIT (R230): ZERO_BLIT, then MEM_RANGE, both before any token; then the window and the bytes verbatim. -/
def blitEffects (x y w h : Half) (addr : Word) (s : State) : List Effect :=
  if w = 0 ∨ h = 0 then [.verdict .zeroBlit]
  else
    match memRead s addr.toNat (2 * w.toNat * h.toNat) with
    | none => [.verdict .memRange]
    | some bytes =>
      emits (windowTokens s.params (coord x) (coord y) (coord x + coord w - 1) (coord y + coord h - 1) ++
        bytes.map dataToken)

def execNop (s : State) : Host.Outcome State Fault Refusal := runCommand .nop (fun _ => nopEffects) s

def execSetWindow (xs ys xe ye : Half) (s : State) : Host.Outcome State Fault Refusal :=
  runCommand (.setWindow xs ys xe ye) (setWindowEffects xs ys xe ye) s

def execWritePixel (c : Half) (s : State) : Host.Outcome State Fault Refusal :=
  runCommand (.writePixel c) (fun _ => writePixelEffects c) s

def execPack565 (r g b : Byte) (s : State) : Host.Outcome State Fault Refusal :=
  runCommand (.pack565 r g b) (fun _ => pack565Effects r g b) s

def execBlit (x y w h : Half) (addr : Word) (s : State) : Host.Outcome State Fault Refusal :=
  runCommand (.blit x y w h addr) (blitEffects x y w h addr) s

end Sys2Proof.Machine
end

