-- ==== Sys2Proof/Machine/Dispatch.lean ====
section
/-! DEFINITION. One arm per command of spec/opcode_table.json, each one call of its meaning. -/

namespace Sys2Proof.Machine

def exec (i : Instr) (s : State) : Host.Outcome State Fault Refusal :=
  match i with
  | .nop => Sys2Proof.Machine.execNop s
  | .setWindow xs ys xe ye => Sys2Proof.Machine.execSetWindow xs ys xe ye s
  | .writePixel color => Sys2Proof.Machine.execWritePixel color s
  | .pack565 r g b => Sys2Proof.Machine.execPack565 r g b s
  | .blit x y w h addr => Sys2Proof.Machine.execBlit x y w h addr s
  | .drawPixel x y color => Sys2Proof.Machine.execDrawPixel x y color s
  | .drawLine x0 y0 x1 y1 color => Sys2Proof.Machine.execDrawLine x0 y0 x1 y1 color s
  | .drawCircle x0 y0 r color => Sys2Proof.Machine.execDrawCircle x0 y0 r color s
  | .drawTriangle x0 y0 x1 y1 x2 y2 color => Sys2Proof.Machine.execDrawTriangle x0 y0 x1 y1 x2 y2 color s
  | .drawRect x0 y0 w h color => Sys2Proof.Machine.execDrawRect x0 y0 w h color s
  | .setFont base fw fh => Sys2Proof.Machine.execSetFont base fw fh s
  | .setCursorPos x y => Sys2Proof.Machine.execSetCursorPos x y s
  | .setCursorStyle color cspace lspace => Sys2Proof.Machine.execSetCursorStyle color cspace lspace s
  | .putChar ch => Sys2Proof.Machine.execPutChar ch s
  | .putString addr len => Sys2Proof.Machine.execPutString addr len s
  | .setCjkTable base count => Sys2Proof.Machine.execSetCjkTable base count s
  | .drawCjk x y index color => Sys2Proof.Machine.execDrawCjk x y index color s

end Sys2Proof.Machine
end

