-- ==== Sys2Proof/Machine/Step.lean ====
section
/-! DEFINITION. The step of the machine, and how the host's check places an instruction where the next step takes it. Both
only call operations of Machine/Ops.lean and Decode.lean. -/

namespace Sys2Proof.Machine

/-- One step (00_scope.md R13). -/
def step : State → Host.Outcome State Fault Refusal := machineStep exec

/-- The host presents the frame of a table word as its very next move (log 5). -/
def State.withFetchWord (s : State) (nbits w : Nat) : State := presentFrame (tableFrame nbits w) s

end Sys2Proof.Machine
end

