-- ==== Sys2Proof/WellFormed.lean ====
section
/-! DEFINITION. What is well formed: commands, byte strings as frames, and parameters.

30_encoding.md R87: "Argument values are never illegal at decode." An argument's width is its type, so every term of
`Instr` is well formed. What CAN be ill formed is a byte string at the command port (R81, R83, R86, R88) and a choice of
parameters (00_scope.md R6); each check is a function of its own, and Tests/Slice0.lean shows a term each refuses. -/

namespace Sys2Proof

/-- Every command is well formed (R87): its operands carry their widths, and no value of them is reserved. -/
def Instr.wellFormed : Instr → Bool
  | _ => true

/-- A byte string has an opcode byte. -/
def Frame.hasOpcode (bytes : List Byte) : Bool := !bytes.isEmpty

/-- Its opcode is in the opcode map of R85, not reserved (R86). -/
def Frame.opcodeAssigned (bytes : List Byte) : Bool :=
  (bytes.head?.bind frameLength).isSome

/-- It is not shorter than its opcode's length (R88: shorter is "incomplete" and is not a frame). -/
def Frame.complete (bytes : List Byte) : Bool :=
  match bytes.head?.bind frameLength with
  | some n => n ≤ bytes.length
  | none => true

/-- It holds nothing past its opcode's length (R81: "The frame's length is fixed by its opcode"). -/
def Frame.noSurplus (bytes : List Byte) : Bool :=
  match bytes.head?.bind frameLength with
  | some n => bytes.length ≤ n
  | none => true

/-- A byte string is exactly one frame of the opcode map. -/
def Frame.wellFormed (bytes : List Byte) : Bool :=
  Frame.hasOpcode bytes && Frame.opcodeAssigned bytes && Frame.complete bytes && Frame.noSurplus bytes

/-- `COLUMN_COUNT` and `LINE_COUNT` are 1..65535 (R6). -/
def Params.geometryOk (p : Params) : Bool := p.columnCount != 0 && p.lineCount != 0

/-- `MEM_SIZE` is 1..2^32 (R6). -/
def Params.memSizeOk (p : Params) : Bool := decide (1 ≤ p.memSize) && decide (p.memSize ≤ 2 ^ 32)

/-- The parameters lie in the ranges R6 gives. -/
def Params.ok (p : Params) : Bool := p.geometryOk && p.memSizeOk

end Sys2Proof
end

