-- ==== Sys2Proof/Safety.lean ====
section
/-! DEFINITION. What statements say of a state: when the block takes a frame, what the environment does meanwhile, when the
observer can take a new window, what a good final state is, the register views statements compare, and the invariant. -/

namespace Sys2Proof

/-- The three command bytes differ (30_encoding.md R90 names three commands). -/
abbrev Params.distinctCommands (p : Params) : Prop :=
  p.cmdCaset ≠ p.cmdRaset ∧ p.cmdCaset ≠ p.cmdRamwr ∧ p.cmdRaset ≠ p.cmdRamwr

/-- No panel-local coordinate on the panel leaves 16 bits when its offset is added. -/
abbrev Params.offsetsFit (p : Params) : Prop :=
  p.columnOffset.toNat + p.columnCount.toNat ≤ 65536 ∧ p.lineOffset.toNat + p.lineCount.toNat ≤ 65536

/-- A panel-local place on the panel (R63). -/
abbrev Params.onPanel (p : Params) (xy : Int × Int) : Prop :=
  0 ≤ xy.1 ∧ xy.1 < Machine.coord p.columnCount ∧ 0 ≤ xy.2 ∧ xy.2 < Machine.coord p.lineCount

end Sys2Proof

namespace Sys2Proof.Machine

/-- The run has not stopped at a verdict and no command is in progress (10_state.md R24, R38, R40). -/
abbrev State.idle (s : State) : Prop := s.undef = none ∧ s.busy = false ∧ s.work = none

/-- A frame offered now runs its command: steps 1 and 2 of R249 do not apply. -/
abbrev State.accepting (s : State) : Prop := s.idle ∧ s.fault = false ∧ s.ready = true

/-- The next `n` tokens are answered ok, with no move of the host before, between or right after them (20_memory.md R57);
past the list's end every answer is ok (log 4). `quiet 0` says that no move of the host lands here. -/
abbrev State.quiet (s : State) (n : Nat) : Prop :=
  (s.draws.take n).all (· == .answer .ok) = true ∧ s.draws[n]? ≠ some .pause

/-- The next `n` tokens are answered ok, with no move of the host before or between them. -/
abbrev State.answersOk (s : State) (n : Nat) : Prop := (s.draws.take n).all (· == .answer .ok) = true

/-- A good final state (60_exceptions.md R246, R259): no verdict, and no command in progress. -/
abbrev State.goodFinal (s : State) : Prop := s.undef = none ∧ s.busy = false

/-- The state after these tokens were accepted and left the observer at `q`. -/
def State.delivered (s : State) (ts : List Token) (q : Panel) : State :=
  { s with trace := s.trace ++ ts.map (⟨·, .ok⟩), draws := s.draws.drop ts.length, panel := q }

/-- The observer can take a command token: no range is half received, and no stream is short (20_memory.md R68, R69). -/
abbrev Panel.settled (q : Panel) : Prop :=
  q.lost = false ∧ (q.mode = .idle ∨ (q.mode = .stream ∧ windowSize q ≤ q.count ∧ q.hi = none))

/-- The stream of the observer is open and full (20_memory.md R67, 40_window_writer.md R116). -/
abbrev Panel.full (q : Panel) : Prop := q.mode = .stream ∧ q.count = windowSize q ∧ q.hi = none

/-- The cursor registers (R25, R26). -/
def State.cursor (s : State) : Half × Half := (s.curX, s.curY)

/-- The style registers (R27-R29). -/
def State.style (s : State) : Half × Half × Half := (s.curColor, s.curCspace, s.curLspace)

/-- The font registers (R30, R31). -/
def State.font (s : State) : Word × Byte × Byte := (s.fontBase, s.fontW, s.fontH)

/-- The CJK registers (R32, R33). -/
def State.cjk (s : State) : Word × Half := (s.cjkBase, s.cjkCount)

/-- The fault registers (R24). -/
def State.faults (s : State) : Bool × FaultCode := (s.fault, s.faultCode)

/-- Every command's effects, by its pseudocode: what `exec` runs after dispatch. -/
def effectsOf : Instr → State → List Effect
  | .nop => fun _ => nopEffects
  | .setWindow xs ys xe ye => setWindowEffects xs ys xe ye
  | .writePixel c => fun _ => writePixelEffects c
  | .pack565 r g b => fun _ => pack565Effects r g b
  | .blit x y w h addr => blitEffects x y w h addr
  | .drawPixel x y c => drawPixelEffects x y c
  | .drawLine x0 y0 x1 y1 c => drawLineEffects x0 y0 x1 y1 c
  | .drawCircle x0 y0 r c => drawCircleEffects x0 y0 r c
  | .drawTriangle x0 y0 x1 y1 x2 y2 c => drawTriangleEffects x0 y0 x1 y1 x2 y2 c
  | .drawRect x0 y0 w h c => drawRectEffects x0 y0 w h c
  | .setFont base fw fh => fun _ => setFontEffects base fw fh
  | .setCursorPos x y => fun _ => setCursorPosEffects x y
  | .setCursorStyle c cspace lspace => fun _ => setCursorStyleEffects c cspace lspace
  | .putChar ch => putCharCommandEffects ch
  | .putString addr len => putStringEffects addr len
  | .setCjkTable base count => fun _ => setCjkTableEffects base count
  | .drawCjk x y index c => drawCjkEffects x y index c

/-- The tokens among a command's effects, in order. -/
def effectTokens (es : List Effect) : List Token :=
  es.filterMap fun e =>
    match e with
    | .emit t => some t
    | .write _ => none
    | .verdict _ => none
    | .illegalCmd => none

/-- The register writes among these effects, made in order. -/
def applyWrites : List Effect → State → State
  | [], s => s
  | .write w :: es, s => applyWrites es (writeRegister w s)
  | .emit _ :: es, s => applyWrites es s
  | .verdict _ :: es, s => applyWrites es s
  | .illegalCmd :: es, s => applyWrites es s

/-- The color and the points, in plot order, of a rasterizer command that has them (41_rasterizer.md R141-R149); none for a
rectangle of zero size and for every other command. -/
def rasterPlot : Instr → Option (Half × List (Int × Int))
  | .drawPixel x y c => some (c, [(coord x, coord y)])
  | .drawLine x0 y0 x1 y1 c => some (c, linePoints (coord x0) (coord y0) (coord x1) (coord y1))
  | .drawCircle x0 y0 r c => some (c, circlePoints (coord x0) (coord y0) r)
  | .drawTriangle x0 y0 x1 y1 x2 y2 c =>
    some (c, trianglePoints (coord x0) (coord y0) (coord x1) (coord y1) (coord x2) (coord y2))
  | .drawRect x0 y0 w h c =>
    if w = 0 ∨ h = 0 then none else some (c, rectPoints (coord x0) (coord y0) (coord w) (coord h))
  | _ => none

/-- A glyph lies in source memory (42_glyph_text.md R181). -/
abbrev glyphInMemory (s : State) (ch : Byte) : Prop :=
  s.fontBase.toNat + (ch.toNat - 32) * ((s.fontW.toNat + 7) / 8 * s.fontH.toNat) +
    (s.fontW.toNat + 7) / 8 * s.fontH.toNat ≤ s.params.memSize

/-- R180's FontValid, written out. -/
abbrev fontLegal (s : State) : Prop := 1 ≤ s.fontW.toNat ∧ s.fontW.toNat ≤ 16 ∧ 1 ≤ s.fontH.toNat

/-- A CJK entry's bit by R190's formula, read from source memory. -/
def cjkBitAt (s : State) (index : Half) (row col : Nat) : Bool :=
  (readByte s.mem (s.cjkBase.toNat + 32 * index.toNat + (16 * (row / 8) + col))).getLsbD (row % 8)

/-- The command's first token is a window's CMD token, no verdict being named before it: R275's list. -/
def opensWindow (s : State) : Instr → Prop
  | .setWindow _ _ _ _ => True
  | .blit _ _ w h addr => w ≠ 0 ∧ h ≠ 0 ∧ addr.toNat + 2 * w.toNat * h.toNat ≤ s.params.memSize
  | .drawPixel _ _ _ => True
  | .drawLine _ _ _ _ _ => True
  | .drawCircle _ _ _ _ => True
  | .drawTriangle _ _ _ _ _ _ _ => True
  | .drawRect _ _ w h _ => w ≠ 0 ∧ h ≠ 0
  | .putChar ch => fontLegal s ∧ 32 ≤ ch.toNat ∧ ch.toNat ≤ 127 ∧ glyphInMemory s ch
  | .putString addr len =>
    fontLegal s ∧ addr.toNat + min len.toNat (textMaxChars s.params.textMax) ≤ s.params.memSize ∧
    ∃ ch, ((List.range (min len.toNat (textMaxChars s.params.textMax))).map fun k =>
      readByte s.mem (addr.toNat + k)).find? printable = some ch ∧ glyphInMemory s ch
  | .drawCjk _ _ index _ =>
    index.toNat < s.cjkCount.toNat ∧ s.cjkBase.toNat + 32 * index.toNat + 32 ≤ s.params.memSize ∧
    (s.params.cjkBg = .black ∨ ∃ row col : Nat, row < 16 ∧ col < 16 ∧ cjkBitAt s index row col = true)
  | .nop => False
  | .writePixel _ => False
  | .pack565 _ _ _ => False
  | .setFont _ _ _ => False
  | .setCursorPos _ _ => False
  | .setCursorStyle _ _ _ => False
  | .setCjkTable _ _ => False

/-- Run PUT_CHAR for each of these characters in order; none where one of them does not answer a next state. -/
def putCharsInTurn : List Byte → State → Option State
  | [], s => some s
  | ch :: rest, s =>
    match exec (.putChar ch) s with
    | .next t => putCharsInTurn rest t
    | .fault _ => none
    | .refused _ => none

/-- The commands whose row of R37 names CUR_X and CUR_Y. -/
def writesCursor : Instr → Bool
  | .setCursorPos _ _ => true
  | .putChar _ => true
  | .putString _ _ => true
  | _ => false

/-- The command whose row of R37 names CUR_COLOR, CUR_CSPACE and CUR_LSPACE. -/
def writesStyle : Instr → Bool
  | .setCursorStyle _ _ _ => true
  | _ => false

/-- The command whose row of R37 names FONT_BASE and FONT_GEOM. -/
def writesFont : Instr → Bool
  | .setFont _ _ _ => true
  | _ => false

/-- The command whose row of R37 names CJK_BASE and CJK_COUNT. -/
def writesCjk : Instr → Bool
  | .setCjkTable _ _ => true
  | _ => false

/-- The command whose row of R37 names PACK_RESULT. -/
def writesPack : Instr → Bool
  | .pack565 _ _ _ => true
  | _ => false

/-- A question about a command's row of R37, asked of a frame; a reserved opcode has no row. -/
def PortFrame.asks (row : Instr → Bool) : PortFrame → Bool
  | .command i => row i
  | .reserved _ => false

/-- The register write is of a register in the frame's row of R37. -/
def PortFrame.mayWrite (f : PortFrame) : RegWrite → Bool
  | .curX _ => f.asks writesCursor
  | .curY _ => f.asks writesCursor
  | .curColor _ => f.asks writesStyle
  | .curCspace _ => f.asks writesStyle
  | .curLspace _ => f.asks writesStyle
  | .fontBase _ => f.asks writesFont
  | .fontW _ => f.asks writesFont
  | .fontH _ => f.asks writesFont
  | .cjkBase _ => f.asks writesCjk
  | .cjkCount _ => f.asks writesCjk
  | .packResult _ => f.asks writesPack

/-- An effect this frame can have: only a command offers tokens and writes registers, those of its row (R37); only a
reserved opcode is an illegal command (R244). -/
def PortFrame.mayDo (f : PortFrame) : Effect → Bool
  | .emit _ => f.asks fun _ => true
  | .write w => f.mayWrite w
  | .verdict _ => true
  | .illegalCmd => !f.asks fun _ => true

/-- No register outside the frame's row of R37 has changed between these states. -/
abbrev PortFrame.keepsOthers (f : PortFrame) (s t : State) : Prop :=
  (f.asks writesCursor = false → t.cursor = s.cursor) ∧ (f.asks writesStyle = false → t.style = s.style) ∧
  (f.asks writesFont = false → t.font = s.font) ∧ (f.asks writesCjk = false → t.cjk = s.cjk) ∧
  (f.asks writesPack = false → t.packResult = s.packResult)

/-- FAULT and FAULT_CODE have changed between these states by a transport failure at the last token offered, which lost the
observer's image (R70, R243). -/
abbrev State.failedTransport (s t : State) : Prop :=
  s.fault = false ∧ t.faults = (true, .transport) ∧ t.panel.lost = true ∧ ∃ k : Token, t.trace.getLast? = some ⟨k, .fail⟩

/-- No register of the block but the READY input has changed between these states, and no token was offered. -/
abbrev State.undisturbed (s t : State) : Prop :=
  t.busy = s.busy ∧ t.faults = s.faults ∧ t.cursor = s.cursor ∧ t.style = s.style ∧ t.font = s.font ∧ t.cjk = s.cjk ∧
  t.packResult = s.packResult ∧ t.trace = s.trace

/-- The command in progress has only effects of its own frame before it. -/
def Work.inv (w : Work) : Bool := w.rest.all w.frame.mayDo

/-- The eight reflections of a circle's step about its centre, in the order R145 plots them. -/
def reflections (x0 y0 x y : Int) : List (Int × Int) :=
  [(x0 + x, y0 + y), (x0 + y, y0 + x), (x0 - y, y0 + x), (x0 - x, y0 + y),
   (x0 - x, y0 - y), (x0 - y, y0 - x), (x0 + y, y0 - x), (x0 + x, y0 - y)]

/-- The variables `(x, y, err)` of R145 after one more step. -/
def circleNext (v : Int × Int × Int) : Int × Int × Int :=
  let y := if v.2.2 ≤ 0 then v.2.1 + 1 else v.2.1
  let err := if v.2.2 ≤ 0 then v.2.2 + 2 * y + 1 else v.2.2
  if err > 0 then (v.1 - 1, y, err - (2 * (v.1 - 1) + 1)) else (v.1, y, err)

/-- The variables `(x, y, err)` of R142 where its loop starts. -/
def lineStart (x0 y0 x1 y1 : Int) : Int × Int × Int :=
  (x0, y0, Int.tdiv (if |x1 - x0| > |y1 - y0| then |x1 - x0| else -|y1 - y0|) 2)

/-- The variables `(x, y, err)` of R142 after one more step: both tests read `e2`, the `err` of before. -/
def lineNext (x0 y0 x1 y1 : Int) (v : Int × Int × Int) : Int × Int × Int :=
  let e2 := v.2.2
  let (x, err) := if e2 > -|x1 - x0| then (v.1 + (if x0 < x1 then 1 else -1), e2 - |y1 - y0|) else (v.1, e2)
  let (y, err) := if e2 < |y1 - y0| then (v.2.1 + (if y0 < y1 then 1 else -1), err + |x1 - x0|) else (v.2.1, err)
  (x, y, err)

/-- The reserved opcodes as R86 lists them. -/
def reservedOpcode (opcode : Byte) : Bool :=
  (decide (0x05 ≤ opcode.toNat) && decide (opcode.toNat ≤ 0x0F)) ||
  (decide (0x15 ≤ opcode.toNat) && decide (opcode.toNat ≤ 0x1F)) ||
  (decide (0x25 ≤ opcode.toNat) && decide (opcode.toNat ≤ 0x2F)) || decide (0x32 ≤ opcode.toNat)

/-- A u16 as two DATA tokens, high byte first, by arithmetic (30_encoding.md R91). -/
def shownHalf (v : Half) : List Token := [⟨.data, BitVec.ofNat 8 (v.toNat / 256)⟩, ⟨.data, BitVec.ofNat 8 v.toNat⟩]

/-- The 11 tokens of R90's table for u16 bounds, the sums taken modulo 2^16. -/
def shownWindow (p : Params) (xs ys xe ye : Half) : List Token :=
  ⟨.cmd, p.cmdCaset⟩ :: (shownHalf (xs + p.columnOffset) ++ shownHalf (xe + p.columnOffset) ++
    ⟨.cmd, p.cmdRaset⟩ :: (shownHalf (ys + p.lineOffset) ++ shownHalf (ye + p.lineOffset) ++ [⟨.cmd, p.cmdRamwr⟩]))

/-- A coordinate in ℤ plus its offset as 16 bits (R9, R90): the residue modulo 2^16, of a negative sum too. -/
def shownCoord (v : Int) (offset : Half) : Half := BitVec.ofNat 16 ((v + coord offset) % 65536).toNat

/-- The 11 tokens of R90's table for bounds in ℤ. -/
def shownWindowAt (p : Params) (xs ys xe ye : Int) : List Token :=
  ⟨.cmd, p.cmdCaset⟩ :: (shownHalf (shownCoord xs p.columnOffset) ++ shownHalf (shownCoord xe p.columnOffset) ++
    ⟨.cmd, p.cmdRaset⟩ :: (shownHalf (shownCoord ys p.lineOffset) ++ shownHalf (shownCoord ye p.lineOffset) ++
      [⟨.cmd, p.cmdRamwr⟩]))

/-- The panel-local place the panel takes a point in ℤ for, its sums with the offsets being emitted modulo 2^16. -/
def Panel.place (p : Params) (xy : Int × Int) : Int × Int :=
  ((xy.1 + coord p.columnOffset) % 65536 - coord p.columnOffset, (xy.2 + coord p.lineOffset) % 65536 - coord p.lineOffset)

/-- The pixel bit of a Latin glyph by R93's formula, read from source memory. -/
def glyphBitAt (s : State) (ch : Byte) (r c : Nat) : Bool :=
  (readByte s.mem (s.fontBase.toNat + (ch.toNat - 32) * ((s.fontW.toNat + 7) / 8 * s.fontH.toNat) +
    (r * ((s.fontW.toNat + 7) / 8) + c / 8))).getLsbD (c % 8)

/-- Where R187 draws a printable character. -/
def drawnColumn (s : State) : Half :=
  if s.curX.toNat + s.fontW.toNat + s.curCspace.toNat > s.params.columnCount.toNat then 0 else s.curX

/-- The line after R186's line advance from the cursor. -/
def nextLine (s : State) : Half :=
  if s.curY.toNat + 2 * s.fontH.toNat + s.curLspace.toNat > s.params.lineCount.toNat then 0
  else s.curY + BitVec.setWidth 16 s.fontH + s.curLspace

/-- Where R187 draws a printable character. -/
def drawnLine (s : State) : Half :=
  if s.curX.toNat + s.fontW.toNat + s.curCspace.toNat > s.params.columnCount.toNat then nextLine s else s.curY

/-- A panel-local place outside the rectangle of these corners. -/
abbrev outside (x y xs ys xe ye : Int) : Prop := x < xs ∨ xe < x ∨ y < ys ∨ ye < y

/-- The window and write pointer of an open stream: the window is on the panel, the pointer lies where `count` pixels lead
(20_memory.md R66, R67). -/
def Panel.streamOk (p : Params) (q : Panel) : Bool :=
  match q.cs, q.ce, q.rs, q.re with
  | some cs, some ce, some rs, some re =>
    windowInRange p cs ce rs re && decide (coord cs ≤ q.px) && decide (q.px ≤ coord ce) && decide (coord rs ≤ q.py) &&
    decide (q.count = (q.py - coord rs) * (coord ce - coord cs + 1) + (q.px - coord cs)) &&
    decide (0 ≤ q.count) && decide (q.count ≤ windowSize q)
  | _, _, _, _ => false

/-- Fewer than four bytes of a range have been received (R63: COL(k), ROW(k)). -/
def Panel.modeOk (p : Params) (q : Panel) : Bool :=
  match q.mode with
  | .idle => true
  | .col got => decide (got.length < 4)
  | .row got => decide (got.length < 4)
  | .stream => q.streamOk p

/-- The observer's invariant: its image is in canonical form and on the panel, and its mode makes sense. -/
def Panel.inv (p : Params) (q : Panel) : Bool :=
  Image.wf q.image && q.image.all (fun e => decide (p.onPanel e.1)) && q.modeOk p

/-- THE INVARIANT. Parameters in range (R6); source memory canonical and below MEM_SIZE (R51); FAULT_CODE is 0 exactly
while FAULT is 0 (R24); BUSY is 1 between steps exactly while a frame's execution is in progress (R24, R38), whose effects
still to come are its frame's own (R37); the observer's. -/
def State.inv (s : State) : Bool :=
  s.params.ok && Memory.wf s.mem && s.mem.all (fun c => decide (c.1 < s.params.memSize)) &&
  decide (s.fault = false ↔ s.faultCode = .none) && decide (s.busy = s.work.isSome) && s.work.all Work.inv &&
  s.panel.inv s.params

end Sys2Proof.Machine
end

