-- ==== Sys2Proof/Certificates/Slice0/Obligations.lean ====
section
/-! DEFINITION. The statements about the model, for the provers. Each docstring names the rules of spec/ it formalises; the
words "accepting", "quiet" and "settled" are Safety.lean's. Tests/Slice0.lean shows a witness of the hypotheses of each. -/

open Sys2Proof Sys2Proof.Machine

/-- 30_encoding.md R81, R83, R85: the decoder reads back every command from its words, whatever follows them. -/
def Obligations.DecodeInvertsEncode : Prop :=
  ∀ (i : Instr) (rest : List Byte), decode (encode i ++ rest) = .command i rest

/-- R81, R84, R85: what the decoder reads as a command IS that command's words; no bit of a frame is dropped. -/
def Obligations.EncodeInvertsDecode : Prop :=
  ∀ (bytes : List Byte) (i : Instr) (rest : List Byte), decode bytes = .command i rest → encode i ++ rest = bytes

/-- R86, R88: the decoder is total; a string is incomplete exactly when it is empty or shorter than its opcode's length, and
an opcode is refused exactly when R86 lists it, as a frame of one byte. -/
def Obligations.DecoderIsTotal : Prop :=
  decode [] = .incomplete ∧
  ∀ (opcode : Byte) (rest : List Byte),
    (decode (opcode :: rest) = .reserved opcode rest ↔ reservedOpcode opcode = true) ∧
    (decode (opcode :: rest) = .incomplete ↔ ∃ n, frameLength opcode = some n ∧ rest.length + 1 < n) ∧
    ((∃ i left, decode (opcode :: rest) = .command i left) ↔ ∃ n, frameLength opcode = some n ∧ n ≤ rest.length + 1)

/-- Frames written out byte by byte in 95_test_vectors.md decode to the commands they stand for (R81, R85). -/
def Obligations.SpecFramesDecode : Prop :=
  decode [0x01, 0x01, 0x02, 0x03, 0x04, 0x05, 0x06, 0x07, 0x08] = .command (.setWindow 0x0102 0x0304 0x0506 0x0708) [] ∧
  decode [0x04, 0x00, 0x01, 0x00, 0x02, 0x00, 0x02, 0x00, 0x01, 0x00, 0x00, 0x04, 0x00] =
    .command (.blit 1 2 2 1 0x400) [] ∧
  decode [0x14, 0, 0, 0, 0, 0, 6, 0, 4, 0xFF, 0xFF] = .command (.drawRect 0 0 6 4 0xFFFF) [] ∧
  decode [0x20, 0x00, 0x00, 0x01, 0x00, 0x06, 0x08] = .command (.setFont 0x100 6 8) [] ∧
  decode [0x24, 0x00, 0x00, 0x04, 0x00, 0x00, 0xC8] = .command (.putString 0x400 200) [] ∧
  decode [0x31, 0, 4, 0, 5, 0, 0, 0xFF, 0xFF] = .command (.drawCjk 4 5 0 0xFFFF) []

/-- 10_state.md R21, 30 R88: a step at a presented frame is `exec` of the command it decodes to, at the state in which the
frame has left the port. That bytes past the frame stay presented is the model's choice (log 5). -/
def Obligations.StepRunsTheDecodedFrame : Prop :=
  ∀ (s : State) (bytes left : List Byte) (moves : List HostMove) (i : Instr),
    s.undef = none → s.busy = false → s.host = .send bytes :: moves → decode bytes = .command i left →
      step s = exec i { s with host := if left = [] then moves else .send left :: moves }

/-- 60_exceptions.md R244: a reserved opcode's frame raises ILLEGAL_CMD; no token, and no register besides STATUS. -/
def Obligations.ReservedOpcodeFaults : Prop :=
  ∀ (s : State) (opcode : Byte) (moves : List HostMove),
    s.accepting → s.quiet 0 → s.host = .send [opcode] :: moves → reservedOpcode opcode = true →
      step s = .next { s with host := moves, fault := true, faultCode := .illegalCmd }

/-- R245: while FAULT = 1 every frame is taken and discarded with no effect, and only a reset clears FAULT or changes
FAULT_CODE. -/
def Obligations.FaultedBlockRefusesFrames : Prop :=
  (∀ (i : Instr) (s : State), s.idle → s.quiet 0 → s.fault = true → exec i s = .next s) ∧
  (∀ (s : State) (opcode : Byte) (moves : List HostMove),
    s.idle → s.quiet 0 → s.fault = true → s.host = .send [opcode] :: moves → reservedOpcode opcode = true →
      step s = .next { s with host := moves }) ∧
  (∀ s t : State, s.fault = true → step s = .next t →
    (t.fault = true ∧ t.faultCode = s.faultCode) ∨ ∃ moves, s.host = .reset :: moves)

/-- R249 step 2, 70 R272: a frame while READY = 0 is undefined(NOT_READY), before its opcode is looked at; nothing else
changes. -/
def Obligations.NotReadyVerdict : Prop :=
  ∀ s : State, s.idle → s.quiet 0 → s.fault = false → s.ready = false →
    (∀ i : Instr, exec i s = .next { s with undef := some .notReady }) ∧
    (∀ (opcode : Byte) (moves : List HostMove),
      s.host = .send [opcode] :: moves → reservedOpcode opcode = true →
        step s = .next { s with host := moves, undef := some .notReady })

/-- R246: a verdict is followed by no further step, of the machine or of a command. -/
def Obligations.NoStepAfterVerdict : Prop :=
  ∀ (s : State) (r : Verdict), s.undef = some r →
    step s = .fault (.stopped r) ∧ ∀ i : Instr, exec i s = .fault (.stopped r)

/-- 70 R274: while BUSY = 1 the port takes no frame; a frame the host offers then stays with the host. -/
def Obligations.PortTakesNoFrameWhileBusy : Prop :=
  ∀ s : State, s.undef = none → s.busy = true →
    (∀ i : Instr, exec i s = .fault .portBusy) ∧
    (∀ (t : State) (bytes : List Byte) (moves : List HostMove),
      s.host = .send bytes :: moves → step s = .next t → t.host = s.host)

/-- R241, R243, 20 R57, R70, 00 R11: at the first token answered `fail`, wherever it stands in any command, the command ends
in Fault(TRANSPORT): the tokens before it stay delivered and the register writes before it stay made, it is the last token
offered, no later write is made, and the observer is LOST. -/
def Obligations.TransportFailureAborts : Prop :=
  ∀ (i : Instr) (s : State) (pre : List Effect) (t : Token) (post : List Effect) (q : Panel),
    s.accepting → effectsOf i s = pre ++ .emit t :: post → (∀ r, Effect.verdict r ∉ pre) →
    s.quiet (effectTokens pre).length → s.draws[(effectTokens pre).length]? = some (.answer .fail) →
    observeAll s.params (effectTokens pre) s.panel = .ok q →
      exec i s = .next { applyWrites pre s with
        trace := s.trace ++ (effectTokens pre).map (Offer.mk · .ok) ++ [⟨t, .fail⟩]
        draws := s.draws.drop ((effectTokens pre).length + 1)
        panel := { q with lost := true }
        fault := true
        faultCode := .transport }

/-- R259: at a token that is never answered, wherever it stands in any command, the command never ends: BUSY stays 1, no
later token is offered, and the block takes no further step whatever frame the host offers. That the observer does not
consume the token is the model's reading (log 11). -/
def Obligations.UnansweredTokenHangs : Prop :=
  ∀ (i : Instr) (s : State) (pre : List Effect) (t : Token) (post : List Effect) (q : Panel),
    s.accepting → effectsOf i s = pre ++ .emit t :: post → (∀ r, Effect.verdict r ∉ pre) →
    s.quiet (effectTokens pre).length → s.draws[(effectTokens pre).length]? = some (.answer .never) →
    observeAll s.params (effectTokens pre) s.panel = .ok q →
      ∃ u, exec i s = .next u ∧ u.busy = true ∧ u.fault = false ∧ u.undef = none ∧
        u.trace = s.trace ++ (effectTokens pre).map (Offer.mk · .ok) ++ [⟨t, .never⟩] ∧ u.panel = q ∧
        ((s.host = [] ∨ ∃ bytes moves, s.host = .send bytes :: moves) → step u = .fault .hung)

/-- 00_scope.md R11, 20 R57, R58, 60 R246, R249: every command, on a state and operands for which its rule names no verdict,
with a transport that accepts its tokens and an observer that has no verdict on them, completes: its tokens are offered in
order, its register writes are made, and nothing else changes. Where there is a verdict, the command ends at the first of
them: at its own, with the tokens and writes before it, and UNDEF set; at the observer's on a token, the same with that token
as the last one offered. No fault is reported. -/
def Obligations.CommandsComplete : Prop :=
  ∀ (i : Instr) (s : State), s.accepting →
    (∀ q : Panel, (∀ r, Effect.verdict r ∉ effectsOf i s) → s.quiet (effectTokens (effectsOf i s)).length →
      observeAll s.params (effectTokens (effectsOf i s)) s.panel = .ok q →
        exec i s = .next ((applyWrites (effectsOf i s) s).delivered (effectTokens (effectsOf i s)) q)) ∧
    (∀ (pre post : List Effect) (r : Verdict) (q : Panel), effectsOf i s = pre ++ .verdict r :: post →
      (∀ r', Effect.verdict r' ∉ pre) → s.quiet (effectTokens pre).length →
      observeAll s.params (effectTokens pre) s.panel = .ok q →
        exec i s = .next { (applyWrites pre s).delivered (effectTokens pre) q with undef := some r }) ∧
    ∀ (pre post : List Effect) (t : Token) (r : Verdict) (q : Panel), effectsOf i s = pre ++ .emit t :: post →
      (∀ r', Effect.verdict r' ∉ pre) → s.answersOk ((effectTokens pre).length + 1) →
      observeAll s.params (effectTokens pre) s.panel = .ok q → observe s.params t q = .error r →
        exec i s = .next { (applyWrites pre s).delivered (effectTokens pre ++ [t]) q with undef := some r }

/-- 70 R270: reset, at any time no verdict has stopped the run: every register takes its reset value, a command in progress
is abandoned, no token is offered, the observer and READY are as before; and it would not clear UNDEF (10_state.md R40). -/
def Obligations.ResetRestoresTheRegisters : Prop :=
  (∀ (s : State) (moves : List HostMove), s.undef = none → s.host = .reset :: moves →
    step s = .next { s with
      host := moves, busy := false, fault := false, faultCode := .none, curX := 0, curY := 0, curColor := 0,
      curCspace := 0, curLspace := 0, fontBase := 0, fontW := 0, fontH := 0, cjkBase := 0, cjkCount := 0,
      packResult := 0, work := none }) ∧
  ∀ s : State, (resetBlock s).undef = s.undef

/-- 10_state.md R23, 70 R270, R271, vector V-F1: right after reset STATUS shows READY alone and every other register number
reads 0, for every choice of parameters, memory, transport and host. -/
def Obligations.LaunchedRegistersReadZero : Prop :=
  ∀ (p : Params) (ready : Bool) (mem : List Host.Cell) (draws : List Draw) (host : List HostMove),
    registerValue (State.launch p ready mem draws host) 0 = (if ready then 2 else 0) ∧
    ∀ n : Byte, n ≠ 0 → registerValue (State.launch p ready mem draws host) n = 0

/-- R24: the fields of STATUS, and every other bit reads 0. -/
def Obligations.StatusShowsItsFields : Prop :=
  ∀ s : State,
    (registerValue s 0).getLsbD 0 = s.busy ∧ (registerValue s 0).getLsbD 1 = s.ready ∧
    (registerValue s 0).getLsbD 2 = s.fault ∧
    ((registerValue s 0).toNat / 256) % 16 =
      (match s.faultCode with | .none => 0 | .transport => 1 | .illegalCmd => 2) ∧
    ∀ k : Nat, (3 ≤ k ∧ k ≤ 7) ∨ 12 ≤ k → (registerValue s 0).getLsbD k = false

/-- R23, R35: while BUSY = 0 each register number returns its register, zero-extended to 32 bits; FONT_GEOM is FONT_H over
FONT_W; 0x0B-0xFF return 0. That they return 0 while BUSY = 1 too, where R36 gives any value for every register but STATUS,
is the model's choice (log 7). -/
def Obligations.RegisterPortReturnsTheRegisters : Prop :=
  (∀ s : State, s.busy = false →
    (readRegister s 1).toNat = s.curX.toNat ∧ (readRegister s 2).toNat = s.curY.toNat ∧
    (readRegister s 3).toNat = s.curColor.toNat ∧ (readRegister s 4).toNat = s.curCspace.toNat ∧
    (readRegister s 5).toNat = s.curLspace.toNat ∧ readRegister s 6 = s.fontBase ∧
    (readRegister s 7).toNat = s.fontH.toNat * 256 + s.fontW.toNat ∧ readRegister s 8 = s.cjkBase ∧
    (readRegister s 9).toNat = s.cjkCount.toNat ∧ (readRegister s 10).toNat = s.packResult.toNat) ∧
  ∀ (s : State) (n : Byte), 0x0B ≤ n.toNat → readRegister s n = 0

/-- R23, R36, R259: a register read has no side effect. While BUSY = 0 it returns the register. During a command that waits,
the command goes on exactly as it would have without the read; while the transport never answers, nothing of the block
changes; and in both STATUS reads its current value. -/
def Obligations.RegisterReadHasNoSideEffect : Prop :=
  (∀ (s : State) (n : Byte) (moves : List HostMove), s.undef = none → s.busy = false → s.host = .read n :: moves →
    step s = .next { s with host := moves, reads := s.reads ++ [⟨n, registerValue s n⟩] }) ∧
  (∀ (s : State) (n : Byte) (moves : List HostMove) (w : Work), s.undef = none → s.busy = true → s.work = some w →
    w.waiting = .host → s.host = .read n :: moves →
    ∃ t u v, step s = .next t ∧ step { s with host := [] } = .next u ∧ (n = 0 → v = registerValue s 0) ∧
      t = { u with host := moves, reads := s.reads ++ [⟨n, v⟩], freeReads := t.freeReads }) ∧
  (∀ (s : State) (n : Byte) (moves : List HostMove) (w : Work), s.undef = none → s.busy = true → s.work = some w →
    w.waiting = .transport → s.host = .read n :: moves →
    ∃ t v, step s = .next t ∧ (n = 0 → v = registerValue s 0) ∧
      t = { s with host := moves, reads := s.reads ++ [⟨n, v⟩], freeReads := t.freeReads })

/-- 00_scope.md R11, 20_memory.md R58, 70 R274, R281: a move of the host can land before the first effect of every command, and
after any token that no verdict comes before, the last one before the command's end among them: the command waits there
with BUSY = 1, exactly those tokens offered (the wait is the model's draw `pause`, log 4). Where it waits and no move lands,
the command ends in the very state it ends in without the wait. -/
def Obligations.WaitingCommandGoesOn : Prop :=
  ∀ (i : Instr) (s u : State) (pre rest : List Draw), s.idle → s.host = [] → pre.all (· == .answer .ok) = true →
    exec i { s with draws := pre ++ .pause :: rest } = .next u →
      (pre = [] → u.busy = true ∧ u.trace = s.trace) ∧
      (∀ (before after : List Effect) (q : Panel), s.accepting → effectsOf i s = before ++ after →
        (∀ r, Effect.verdict r ∉ before) → (effectTokens before).length = pre.length →
        observeAll s.params (effectTokens before) s.panel = .ok q →
          u.busy = true ∧ u.trace = s.trace ++ (effectTokens before).map (Offer.mk · .ok)) ∧
      (u.busy = true → ∃ v, step u = .next v ∧ exec i { s with draws := pre ++ rest } = .next v)

/-- 60_exceptions.md R257: with BUSY = 0 the block is idle until a frame arrives (or a reset, R270): with no move of the host
nothing changes, and at any other move no register changes (READY is an input) and no token is offered. Bytes that are no
complete frame are no frame (30_encoding.md R88): the step at them answers a next state and is such a move (what becomes of
the bytes themselves is log 5, and not said here). -/
def Obligations.IdleBlockKeepsItsState : Prop :=
  ∀ s : State, s.undef = none → s.busy = false →
    (s.host = [] → step s = .next s) ∧
    (∀ t : State, (∀ bytes moves, s.host ≠ .send bytes :: moves) → (∀ moves, s.host ≠ .reset :: moves) →
      step s = .next t → s.undisturbed t) ∧
    ∀ (bytes : List Byte) (moves : List HostMove), s.host = .send bytes :: moves → decode bytes = .incomplete →
      ∃ t, step s = .next t ∧ s.undisturbed t

/-- 40_window_writer.md R112: NOP completes with no token and no register change. -/
def Obligations.NopCompletes : Prop :=
  (∀ s : State, s.accepting → s.quiet 0 → exec .nop s = .next s) ∧ encode .nop = [0x00]

/-- R115: PACK565 writes PACK_RESULT the top 5, 6 and 5 bits of the channels, and nothing else; it offers no token. -/
def Obligations.PackTruncatesChannels : Prop :=
  ∀ (s : State) (r g b : Byte), s.accepting → s.quiet 0 →
    ∃ v : Half, v.toNat = r.toNat / 8 * 2048 + g.toNat / 4 * 32 + b.toNat / 8 ∧
      exec (.pack565 r g b) s = .next { s with packResult := v } ∧ encode (.pack565 r g b) = [0x03, r, g, b]

/-- 42_glyph_text.md R183, R184, R185, R191: SET_FONT, SET_CURSOR_POS, SET_CURSOR_STYLE and SET_CJK_TABLE complete, store
their operands unchecked, offer no token and change nothing else. -/
def Obligations.RegisterSettersComplete : Prop :=
  ∀ s : State, s.accepting → s.quiet 0 →
    (∀ (base : Word) (fw fh : Byte),
      exec (.setFont base fw fh) s = .next { s with fontBase := base, fontW := fw, fontH := fh }) ∧
    (∀ x y : Half, exec (.setCursorPos x y) s = .next { s with curX := x, curY := y }) ∧
    (∀ c cs ls : Half,
      exec (.setCursorStyle c cs ls) s = .next { s with curColor := c, curCspace := cs, curLspace := ls }) ∧
    (∀ (base : Word) (count : Half),
      exec (.setCjkTable base count) s = .next { s with cjkBase := base, cjkCount := count })

/-- 30_encoding.md R90, 40 R110, R113: SET_WINDOW completes and offers exactly the 11 tokens of R90's table, the bounds plus
the offsets modulo 2^16, never clamped or checked; no register changes. -/
def Obligations.SetWindowOffersElevenTokens : Prop :=
  ∀ (s : State) (xs ys xe ye : Half) (q : Panel), s.accepting → s.quiet 11 →
    observeAll s.params (shownWindow s.params xs ys xe ye) s.panel = .ok q →
      exec (.setWindow xs ys xe ye) s = .next (s.delivered (shownWindow s.params xs ys xe ye) q)

/-- 20_memory.md R64-R66, 40 R113: a SET_WINDOW on the panel completes and leaves the observer with an empty stream of
exactly that window, its pointer at the window's first place; the image is as before. -/
def Obligations.SetWindowOpensTheStream : Prop :=
  ∀ (s : State) (xs ys xe ye : Half), s.accepting → s.quiet 11 → s.panel.settled → s.params.distinctCommands →
    s.params.offsetsFit → xs.toNat ≤ xe.toNat → xe.toNat < s.params.columnCount.toNat → ys.toNat ≤ ye.toNat →
    ye.toNat < s.params.lineCount.toNat →
      ∃ q, exec (.setWindow xs ys xe ye) s = .next (s.delivered (shownWindow s.params xs ys xe ye) q) ∧
        q.mode = .stream ∧ q.count = 0 ∧ q.hi = none ∧ q.lost = false ∧ q.image = s.panel.image ∧
        q.px = coord s.params.columnOffset + coord xs ∧ q.py = coord s.params.lineOffset + coord ys ∧
        windowSize q = (coord xe - coord xs + 1) * (coord ye - coord ys + 1)

/-- 20_memory.md R66, 40 R113, 41 R141, R146, 42 R187, R188, R192, 43 R230, 93 U1: WINDOWS OFF THE PANEL. A SET_WINDOW that is
reversed, reaches past the panel, or has a bound whose sum with the offset is 65536 or more (and is emitted modulo 2^16) still
offers its 11 tokens; at the last of them the observer gives undefined(PANEL_WINDOW). So does the window of BLIT, of a
printable PUT_CHAR (its line advance made, its cursor not moved on) and of DRAW_CJK in BLACK mode. The five rasterizer
commands, and DRAW_CJK in TRANSPARENT mode, plot their points as far as the first whose place, as emitted, is off the panel,
and end at that point's window. No hardware fault is reported. -/
def Obligations.OffPanelWindowsAreVerdicts : Prop :=
  ∀ s : State, s.accepting → s.panel.settled → s.params.distinctCommands →
    (∀ xs ys xe ye : Half, s.answersOk 11 →
      (xe.toNat < xs.toNat ∨ s.params.columnCount.toNat ≤ xe.toNat ∨ ye.toNat < ys.toNat ∨
        s.params.lineCount.toNat ≤ ye.toNat ∨ 65536 ≤ xs.toNat + s.params.columnOffset.toNat ∨
        65536 ≤ xe.toNat + s.params.columnOffset.toNat ∨ 65536 ≤ ys.toNat + s.params.lineOffset.toNat ∨
        65536 ≤ ye.toNat + s.params.lineOffset.toNat) →
      ∃ t, exec (.setWindow xs ys xe ye) s = .next t ∧ t.undef = some .panelWindow ∧ t.fault = false ∧
        t.trace = s.trace ++ (shownWindow s.params xs ys xe ye).map (Offer.mk · .ok)) ∧
    (∀ (i : Instr) (c : Half) (before after : List (Int × Int)) (xy : Int × Int),
      rasterPlot i = some (c, before ++ xy :: after) → s.answersOk (13 * before.length + 11) →
      (∀ ab ∈ before, s.params.onPanel (Panel.place s.params ab)) → ¬ s.params.onPanel (Panel.place s.params xy) →
      ∃ t, exec i s = .next t ∧ t.undef = some .panelWindow ∧ t.fault = false ∧
        t.trace = s.trace ++ (before.flatMap (plotTokens s.params c) ++
          windowTokens s.params xy.1 xy.2 xy.1 xy.2).map (Offer.mk · .ok)) ∧
    (∀ (x y w h : Half) (addr : Word), w ≠ 0 → h ≠ 0 → addr.toNat + 2 * w.toNat * h.toNat ≤ s.params.memSize →
      s.answersOk 11 → (s.params.columnCount.toNat < x.toNat + w.toNat ∨ s.params.lineCount.toNat < y.toNat + h.toNat ∨
        65536 < x.toNat + w.toNat + s.params.columnOffset.toNat ∨ 65536 < y.toNat + h.toNat + s.params.lineOffset.toNat) →
      ∃ t, exec (.blit x y w h addr) s = .next t ∧ t.undef = some .panelWindow ∧ t.fault = false ∧
        t.trace = s.trace ++ (windowTokens s.params (coord x) (coord y) (coord x + coord w - 1)
          (coord y + coord h - 1)).map (Offer.mk · .ok)) ∧
    (∀ ch : Byte, fontLegal s → 32 ≤ ch.toNat → ch.toNat ≤ 127 → glyphInMemory s ch → s.answersOk 11 →
      (s.params.columnCount.toNat < (drawnColumn s).toNat + s.fontW.toNat ∨
        s.params.lineCount.toNat < (drawnLine s).toNat + s.fontH.toNat ∨
        65536 < (drawnColumn s).toNat + s.fontW.toNat + s.params.columnOffset.toNat ∨
        65536 < (drawnLine s).toNat + s.fontH.toNat + s.params.lineOffset.toNat) →
      ∃ t, exec (.putChar ch) s = .next t ∧ t.undef = some .panelWindow ∧ t.fault = false ∧
        t.cursor = (drawnColumn s, drawnLine s) ∧
        t.trace = s.trace ++ (windowTokens s.params (coord (drawnColumn s)) (coord (drawnLine s))
          (coord (drawnColumn s) + s.fontW.toNat - 1) (coord (drawnLine s) + s.fontH.toNat - 1)).map (Offer.mk · .ok)) ∧
    ∀ x y index c : Half, index.toNat < s.cjkCount.toNat →
      s.cjkBase.toNat + 32 * index.toNat + 32 ≤ s.params.memSize →
      (s.params.cjkBg = .black → s.answersOk 11 →
        (s.params.columnCount.toNat < x.toNat + 16 ∨ s.params.lineCount.toNat < y.toNat + 16 ∨
          65536 < x.toNat + 16 + s.params.columnOffset.toNat ∨ 65536 < y.toNat + 16 + s.params.lineOffset.toNat) →
        ∃ t, exec (.drawCjk x y index c) s = .next t ∧ t.undef = some .panelWindow ∧ t.fault = false ∧
          t.trace = s.trace ++ (windowTokens s.params (coord x) (coord y) (coord x + 15) (coord y + 15)).map
            (Offer.mk · .ok)) ∧
      ∀ (before after : List (Int × Int)) (xy : Int × Int), s.params.cjkBg = .transparent →
        ((List.range 32).flatMap fun k => (List.range 8).filterMap fun b =>
          if (readByte s.mem (s.cjkBase.toNat + 32 * index.toNat + k)).getLsbD b then
            some (coord x + (k % 16 : Nat), coord y + (8 * (k / 16) + b : Nat)) else none) = before ++ xy :: after →
        s.answersOk (13 * before.length + 11) → (∀ ab ∈ before, s.params.onPanel (Panel.place s.params ab)) →
        ¬ s.params.onPanel (Panel.place s.params xy) →
        ∃ t, exec (.drawCjk x y index c) s = .next t ∧ t.undef = some .panelWindow ∧ t.fault = false ∧
          t.trace = s.trace ++ (before.flatMap (plotTokens s.params c) ++
            windowTokens s.params xy.1 xy.2 xy.1 xy.2).map (Offer.mk · .ok)

/-- 30 R91, 40 R111, R114: WRITE_PIXEL completes and offers the color's high byte and then its low byte, unchanged. -/
def Obligations.WritePixelOffersTwoTokens : Prop :=
  ∀ (s : State) (c : Half) (q : Panel), s.accepting → s.quiet 2 →
    observeAll s.params (shownHalf c) s.panel = .ok q →
      exec (.writePixel c) s = .next (s.delivered (shownHalf c) q)

/-- 20_memory.md R67, R69, 40 R114: WRITE_PIXEL in an open stream that is not full writes the pixel at the pointer, which
moves on in raster order; in a full stream it is undefined(PANEL_OVERRUN) at the second byte; with no stream it is
undefined(PANEL_PROTOCOL) at the first. -/
def Obligations.WritePixelAtTheObserver : Prop :=
  ∀ (s : State) (c cs ce : Half), s.accepting → s.quiet 2 → s.panel.lost = false →
    (s.panel.mode = .stream → s.panel.hi = none → s.panel.cs = some cs → s.panel.ce = some ce →
      s.panel.count ≠ windowSize s.panel →
      ∃ t, exec (.writePixel c) s = .next t ∧ t.undef = none ∧ t.panel.mode = .stream ∧ t.panel.hi = none ∧
        t.panel.count = s.panel.count + 1 ∧
        (t.panel.px, t.panel.py) =
          (if coord ce < s.panel.px + 1 then (coord cs, s.panel.py + 1) else (s.panel.px + 1, s.panel.py)) ∧
        ∀ x y : Int, panelPixel t x y =
          if x = s.panel.px - coord s.params.columnOffset ∧ y = s.panel.py - coord s.params.lineOffset then some c
          else panelPixel s x y) ∧
    (s.panel.mode = .stream → s.panel.hi = none → s.panel.count = windowSize s.panel →
      ∃ t, exec (.writePixel c) s = .next t ∧ t.undef = some .panelOverrun ∧
        t.trace = s.trace ++ (shownHalf c).map (Offer.mk · .ok)) ∧
    (s.panel.mode = .idle →
      ∃ t, exec (.writePixel c) s = .next t ∧ t.undef = some .panelProtocol ∧
        t.trace = s.trace ++ [⟨⟨.data, BitVec.ofNat 8 (c.toNat / 256)⟩, .ok⟩])

/-- 43_image_blit.md R230, 20 R54: BLIT of a size of at least 1 by 1 whose bytes lie in source memory completes and offers
its window and then the 2wh bytes verbatim in increasing address order; no register changes. -/
def Obligations.BlitStreamsVerbatim : Prop :=
  ∀ (s : State) (x y w h : Half) (addr : Word) (q : Panel) (ts : List Token),
    s.accepting → w ≠ 0 → h ≠ 0 → addr.toNat + 2 * w.toNat * h.toNat ≤ s.params.memSize →
    ts = windowTokens s.params (coord x) (coord y) (coord x + coord w - 1) (coord y + coord h - 1) ++
      (List.range (2 * w.toNat * h.toNat)).map (fun k => ⟨.data, readByte s.mem (addr.toNat + k)⟩) →
    s.quiet (11 + 2 * w.toNat * h.toNat) → observeAll s.params ts s.panel = .ok q →
      exec (.blit x y w h addr) s = .next (s.delivered ts q)

/-- R230, R231, 20 R54: a BLIT on the panel completes with the window full; pixel j is at (x + j mod w, y + j div w) and is
the big-endian pair of bytes at addr + 2j; every place outside the window is as before. -/
def Obligations.BlitPaintsTheImage : Prop :=
  ∀ (s : State) (x y w h : Half) (addr : Word), s.accepting → w ≠ 0 → h ≠ 0 →
    addr.toNat + 2 * w.toNat * h.toNat ≤ s.params.memSize → s.quiet (11 + 2 * w.toNat * h.toNat) → s.panel.settled →
    s.params.distinctCommands → s.params.offsetsFit → x.toNat + w.toNat ≤ s.params.columnCount.toNat →
    y.toNat + h.toNat ≤ s.params.lineCount.toNat →
      ∃ t, exec (.blit x y w h addr) s = .next t ∧ t.goodFinal ∧ t.fault = false ∧ t.panel.full ∧
        (∀ j : Nat, j < w.toNat * h.toNat →
          panelPixel t (coord x + (j % w.toNat : Nat)) (coord y + (j / w.toNat : Nat)) =
            some (be16 (readByte s.mem (addr.toNat + 2 * j)) (readByte s.mem (addr.toNat + 2 * j + 1)))) ∧
        ∀ px py : Int, outside px py (coord x) (coord y) (coord x + coord w - 1) (coord y + coord h - 1) →
          panelPixel t px py = panelPixel s px py

/-- 41_rasterizer.md R140-R149 and 70 R280: DRAW_PIXEL, DRAW_LINE, DRAW_CIRCLE, DRAW_TRIANGLE and DRAW_RECT (of a size of at
least 1 by 1) complete and offer one Plot of 13 tokens for each of their points, in plot order, duplicates included; no
register changes. R90, 40 R110, R9: for all bounds in ℤ, negative ones and ones past 16 bits too, the window's tokens carry
the sums with the offsets modulo 2^16; a Plot is the window of its one point and the color (R140). -/
def Obligations.RasterCommandsOfferTheirPlots : Prop :=
  (∀ (p : Params) (xs ys xe ye : Int), windowTokens p xs ys xe ye = shownWindowAt p xs ys xe ye) ∧
  (∀ (p : Params) (c : Half) (x y : Int), plotTokens p c (x, y) = shownWindowAt p x y x y ++ shownHalf c) ∧
  ∀ (i : Instr) (c : Half) (points : List (Int × Int)) (s : State) (q : Panel),
    rasterPlot i = some (c, points) → s.accepting → s.quiet (13 * points.length) →
    observeAll s.params (points.flatMap (plotTokens s.params c)) s.panel = .ok q →
      exec i s = .next (s.delivered (points.flatMap (plotTokens s.params c)) q) ∧
      (points.flatMap (plotTokens s.params c)).length = 13 * points.length

/-- 41_rasterizer.md R140-R150, 20 R67, 40 R116: DRAW_PIXEL, DRAW_LINE, DRAW_CIRCLE, DRAW_TRIANGLE and DRAW_RECT (of a size
of at least 1 by 1) whose points all lie on the panel complete: exactly their points have the color, every other place is as
before, the observer's last window is 1 by 1 and full, and no register changes. -/
def Obligations.RasterCommandsPaintTheirPoints : Prop :=
  ∀ (i : Instr) (c : Half) (points : List (Int × Int)) (s : State),
    rasterPlot i = some (c, points) → s.accepting → s.quiet (13 * points.length) → s.panel.settled →
    s.params.distinctCommands → s.params.offsetsFit → (∀ xy ∈ points, s.params.onPanel xy) →
      ∃ q, exec i s = .next (s.delivered (points.flatMap (plotTokens s.params c)) q) ∧
        q.full ∧ windowSize q = 1 ∧ q.lost = false ∧
        ∀ xy : Int × Int, imageGet q.image xy = if xy ∈ points then some c else imageGet s.panel.image xy

/-- R142, R144.1, R144.2: for all endpoints the points are those of R142's steps from its initial error on, both tests of a
step reading the same error; the loop ends at its first visit to the endpoint, after exactly max(dx, dy) + 1 points, the first
(x0, y0), the last (x1, y1); the model's bound on the iterations cuts nothing short (log 14). -/
def Obligations.LineReachesItsEndpoint : Prop :=
  ∀ x0 y0 x1 y1 : Int,
    (∃ steps : List (Int × Int × Int), steps.head? = some (lineStart x0 y0 x1 y1) ∧
      List.IsChain (fun a b => b = lineNext x0 y0 x1 y1 a) steps ∧
      (∀ v ∈ steps.dropLast, (v.1, v.2.1) ≠ (x1, y1)) ∧
      linePoints x0 y0 x1 y1 = steps.map (fun v => (v.1, v.2.1))) ∧
    ((linePoints x0 y0 x1 y1).length : Int) = max |x1 - x0| |y1 - y0| + 1 ∧
    (linePoints x0 y0 x1 y1).head? = some (x0, y0) ∧ (linePoints x0 y0 x1 y1).getLast? = some (x1, y1)

/-- R144.3, R144.4: consecutive points of a line differ by at most 1 in each coordinate, and no point is plotted twice. -/
def Obligations.LineIsConnected : Prop :=
  ∀ x0 y0 x1 y1 : Int,
    List.IsChain (fun a b : Int × Int => |a.1 - b.1| ≤ 1 ∧ |a.2 - b.2| ≤ 1 ∧ a ≠ b) (linePoints x0 y0 x1 y1) ∧
    (linePoints x0 y0 x1 y1).Nodup

/-- R144.5: every point of a line lies in the box of its endpoints. -/
def Obligations.LineStaysInItsBox : Prop :=
  ∀ (x0 y0 x1 y1 : Int) (xy : Int × Int), xy ∈ linePoints x0 y0 x1 y1 →
    min x0 x1 ≤ xy.1 ∧ xy.1 ≤ max x0 x1 ∧ min y0 y1 ≤ xy.2 ∧ xy.2 ≤ max y0 y1

/-- R143: a horizontal or vertical line, in either direction, plots every place between its endpoints in order; where
dx = dy it plots the diagonal, in each of the four directions. -/
def Obligations.StraightLinesPlotEveryPlace : Prop :=
  ∀ (x y : Int) (n : Nat),
    linePoints x y (x + n) y = (List.range (n + 1)).map (fun k : Nat => (x + (k : Int), y)) ∧
    linePoints x y (x - n) y = (List.range (n + 1)).map (fun k : Nat => (x - (k : Int), y)) ∧
    linePoints x y x (y + n) = (List.range (n + 1)).map (fun k : Nat => (x, y + (k : Int))) ∧
    linePoints x y x (y - n) = (List.range (n + 1)).map (fun k : Nat => (x, y - (k : Int))) ∧
    linePoints x y (x + n) (y + n) = (List.range (n + 1)).map (fun k : Nat => (x + (k : Int), y + (k : Int))) ∧
    linePoints x y (x - n) (y + n) = (List.range (n + 1)).map (fun k : Nat => (x - (k : Int), y + (k : Int))) ∧
    linePoints x y (x + n) (y - n) = (List.range (n + 1)).map (fun k : Nat => (x + (k : Int), y - (k : Int))) ∧
    linePoints x y (x - n) (y - n) = (List.range (n + 1)).map (fun k : Nat => (x - (k : Int), y - (k : Int)))

/-- R145, R147: the circle is R145's steps from (r, 0, 0) on, each by both tests in turn, while x ≥ y and no longer, and each
plots the eight reflections of (x, y) in R145's order. There are at most r + 1 steps, with R147's counts for r = 0..11; every
point lies in the box x0-r..x0+r by y0-r..y0+r; and the model's bound on the iterations cuts nothing short (log 14). -/
def Obligations.CircleEndsInItsBox : Prop :=
  (∀ (x0 y0 : Int) (r : Half),
    (∀ k : Nat, circleLoop x0 y0 (circleFuel r + k) (coord r) 0 0 = circlePoints x0 y0 r) ∧
    (∃ steps : List (Int × Int × Int), steps.head? = some (coord r, 0, 0) ∧
      List.IsChain (fun a b => b = circleNext a) steps ∧ (∀ v ∈ steps, v.1 ≥ v.2.1) ∧
      (∀ v, steps.getLast? = some v → ¬ (circleNext v).1 ≥ (circleNext v).2.1) ∧ steps.length ≤ r.toNat + 1 ∧
      circlePoints x0 y0 r = steps.flatMap (fun v => reflections x0 y0 v.1 v.2.1) ∧
      (circlePoints x0 y0 r).length = 8 * steps.length) ∧
    ∀ xy ∈ circlePoints x0 y0 r,
      x0 - coord r ≤ xy.1 ∧ xy.1 ≤ x0 + coord r ∧ y0 - coord r ≤ xy.2 ∧ xy.2 ≤ y0 + coord r) ∧
  (List.range 12).map (fun r => (circlePoints 0 0 (BitVec.ofNat 16 r)).length / 8) = [1, 1, 2, 2, 3, 4, 4, 5, 6, 6, 7, 8]

/-- R149, 70 R280: a rectangle of w by h, at least 1 by 1, is 2w + 2h Plots: the top side from A to B, the right side down to
C, the bottom side back to D, the left side up to A, every place of each in order, the corners twice; and its points are
exactly the outline of the box (x0, y0) to (x0+w-1, y0+h-1). -/
def Obligations.RectIsTheBoxOutline : Prop :=
  ∀ (x0 y0 : Int) (w h : Nat), 1 ≤ w → 1 ≤ h →
    rectPoints x0 y0 w h =
      (List.range w).map (fun k : Nat => (x0 + (k : Int), y0)) ++
      (List.range h).map (fun k : Nat => (x0 + w - 1, y0 + (k : Int))) ++
      (List.range w).map (fun k : Nat => (x0 + w - 1 - (k : Int), y0 + h - 1)) ++
      (List.range h).map (fun k : Nat => (x0, y0 + h - 1 - (k : Int))) ∧
    (rectPoints x0 y0 w h).length = 2 * w + 2 * h ∧
    ∀ xy : Int × Int, xy ∈ rectPoints x0 y0 w h ↔
      x0 ≤ xy.1 ∧ xy.1 ≤ x0 + w - 1 ∧ y0 ≤ xy.2 ∧ xy.2 ≤ y0 + h - 1 ∧
      (xy.1 = x0 ∨ xy.1 = x0 + w - 1 ∨ xy.2 = y0 ∨ xy.2 = y0 + h - 1)

/-- R148: a triangle's points are those of its three lines p0→p1, p1→p2, p2→p0 in that order, so each vertex is plotted twice
and, where all three are one place, it is plotted three times. -/
def Obligations.TriangleIsThreeLines : Prop :=
  ∀ x0 y0 x1 y1 x2 y2 : Int,
    trianglePoints x0 y0 x1 y1 x2 y2 =
      linePoints x0 y0 x1 y1 ++ (linePoints x1 y1 x2 y2 ++ linePoints x2 y2 x0 y0) ∧
    (((x0, y0) ≠ (x1, y1) ∧ (x1, y1) ≠ (x2, y2) ∧ (x2, y2) ≠ (x0, y0)) →
      2 ≤ (trianglePoints x0 y0 x1 y1 x2 y2).count (x0, y0) ∧
      2 ≤ (trianglePoints x0 y0 x1 y1 x2 y2).count (x1, y1) ∧
      2 ≤ (trianglePoints x0 y0 x1 y1 x2 y2).count (x2, y2)) ∧
    trianglePoints x0 y0 x0 y0 x0 y0 = [(x0, y0), (x0, y0), (x0, y0)]

/-- The checks of BLIT's and DRAW_RECT's size, of the bytes of BLIT and of PUT_STRING, of PUT_CHAR's glyph, and of DRAW_CJK's
index and entry come before any token or cursor effect (R230, R149, R188, R189, R192, R246, R249): UNDEF is set and nothing
else changes, STATUS included. A string of length 0 past the top of memory is among them by the model's reading (log 10).
The glyph check of a character inside a string comes after the characters before it and before its own tokens and wrap:
where PUT_CHAR of those before it completes, UNDEF is set in the state they leave. -/
def Obligations.CommandVerdictsComeFirst : Prop :=
  ∀ s : State, s.accepting → s.quiet 0 →
    (∀ (x y w h : Half) (addr : Word), w = 0 ∨ h = 0 →
      exec (.blit x y w h addr) s = .next { s with undef := some .zeroBlit }) ∧
    (∀ (x y w h : Half) (addr : Word), w ≠ 0 → h ≠ 0 → s.params.memSize < addr.toNat + 2 * w.toNat * h.toNat →
      exec (.blit x y w h addr) s = .next { s with undef := some .memRange }) ∧
    (∀ x y w h c : Half, w = 0 ∨ h = 0 → exec (.drawRect x y w h c) s = .next { s with undef := some .zeroRect }) ∧
    (∀ ch : Byte, fontLegal s → 32 ≤ ch.toNat → ch.toNat ≤ 127 → ¬ glyphInMemory s ch →
      exec (.putChar ch) s = .next { s with undef := some .memRange }) ∧
    (∀ (addr : Word) (len : Half), fontLegal s →
      s.params.memSize < addr.toNat + min len.toNat (textMaxChars s.params.textMax) →
      exec (.putString addr len) s = .next { s with undef := some .memRange }) ∧
    (∀ x y index c : Half, s.cjkCount.toNat ≤ index.toNat →
      exec (.drawCjk x y index c) s = .next { s with undef := some .cjkIndex }) ∧
    (∀ x y index c : Half, index.toNat < s.cjkCount.toNat →
      s.params.memSize < s.cjkBase.toNat + 32 * index.toNat + 32 →
      exec (.drawCjk x y index c) s = .next { s with undef := some .memRange }) ∧
    (∀ (addr : Word) (len : Half) (pre post : List Byte) (ch : Byte) (t : State), fontLegal s →
      addr.toNat + min len.toNat (textMaxChars s.params.textMax) ≤ s.params.memSize →
      (List.range (min len.toNat (textMaxChars s.params.textMax))).map (fun k => readByte s.mem (addr.toNat + k)) =
        pre ++ ch :: post →
      32 ≤ ch.toNat → ch.toNat ≤ 127 → ¬ glyphInMemory s ch →
      putCharsInTurn pre s = some t → t.goodFinal → t.fault = false →
      exec (.putString addr len) s = .next { t with undef := some .memRange })

/-- 42_glyph_text.md R180: every text command checks the font first, whatever its character or string: with FONT_W outside
1..16 or FONT_H = 0 it is undefined(FONT_CONFIG), before any token, memory read or cursor write. -/
def Obligations.FontIsCheckedFirst : Prop :=
  ∀ s : State, s.accepting → s.quiet 0 → (s.fontW.toNat < 1 ∨ 16 < s.fontW.toNat ∨ s.fontH.toNat < 1) →
    (∀ ch : Byte, exec (.putChar ch) s = .next { s with undef := some .fontConfig }) ∧
    ∀ (addr : Word) (len : Half), exec (.putString addr len) s = .next { s with undef := some .fontConfig }

/-- R186, R187 rule 1: PUT_CHAR of a newline completes: column 0, and the next line, or line 0 where the glyph cell would
pass LINE_COUNT; no token. -/
def Obligations.NewlineAdvancesTheLine : Prop :=
  ∀ s : State, s.accepting → s.quiet 0 → fontLegal s →
    exec (.putChar 0x0A) s = .next { s with
      curX := 0
      curY := if s.curY.toNat + s.fontH.toNat + s.curLspace.toNat + s.fontH.toNat > s.params.lineCount.toNat then 0
        else s.curY + BitVec.setWidth 16 s.fontH + s.curLspace }

/-- R187, R188, R248: PUT_CHAR of a codepoint outside 32..127 other than newline completes and changes nothing, at every
cursor position (90_conflicts.md C1). -/
def Obligations.NonPrintableIsIgnored : Prop :=
  ∀ (s : State) (ch : Byte), s.accepting → s.quiet 0 → fontLegal s → (ch.toNat < 32 ∨ 127 < ch.toNat) → ch ≠ 0x0A →
    exec (.putChar ch) s = .next s

/-- R93, R181, R182, R187, 70 R280: PUT_CHAR of a printable codepoint whose glyph lies in memory completes: it wraps first
where the cell with its trailing space would pass COLUMN_COUNT, offers the cell's window and FONT_W × FONT_H pixels in raster
order, 1 bits in CUR_COLOR and 0 bits black, and moves CUR_X past the cell modulo 2^16. -/
def Obligations.PrintableCharacterIsDrawn : Prop :=
  ∀ (s : State) (ch : Byte) (q : Panel) (ts : List Token), s.accepting → fontLegal s → 32 ≤ ch.toNat → ch.toNat ≤ 127 →
    glyphInMemory s ch →
    ts = windowTokens s.params (coord (drawnColumn s)) (coord (drawnLine s))
        (coord (drawnColumn s) + s.fontW.toNat - 1) (coord (drawnLine s) + s.fontH.toNat - 1) ++
      (List.range s.fontH.toNat).flatMap (fun r => (List.range s.fontW.toNat).flatMap fun c =>
        shownHalf (if glyphBitAt s ch r c then s.curColor else 0)) →
    s.quiet (11 + 2 * (s.fontW.toNat * s.fontH.toNat)) → observeAll s.params ts s.panel = .ok q →
      exec (.putChar ch) s = .next { s.delivered ts q with
        curX := drawnColumn s + BitVec.setWidth 16 s.fontW + s.curCspace, curY := drawnLine s }

/-- R187, 20 R67, 40 R116: a printable character whose cell lies on the panel completes: the cell shows the glyph, every
place outside it is as before, and the window is full. -/
def Obligations.PrintableCharacterShowsItsGlyph : Prop :=
  ∀ (s : State) (ch : Byte), s.accepting → fontLegal s → 32 ≤ ch.toNat → ch.toNat ≤ 127 → glyphInMemory s ch →
    s.quiet (11 + 2 * (s.fontW.toNat * s.fontH.toNat)) → s.panel.settled → s.params.distinctCommands →
    s.params.offsetsFit → (drawnColumn s).toNat + s.fontW.toNat ≤ s.params.columnCount.toNat →
    (drawnLine s).toNat + s.fontH.toNat ≤ s.params.lineCount.toNat →
      ∃ t, exec (.putChar ch) s = .next t ∧ t.goodFinal ∧ t.fault = false ∧ t.panel.full ∧
        (∀ r c : Nat, r < s.fontH.toNat → c < s.fontW.toNat →
          panelPixel t (coord (drawnColumn s) + c) (coord (drawnLine s) + r) =
            some (if glyphBitAt s ch r c then s.curColor else 0)) ∧
        ∀ px py : Int, outside px py (coord (drawnColumn s)) (coord (drawnLine s))
            (coord (drawnColumn s) + s.fontW.toNat - 1) (coord (drawnLine s) + s.fontH.toNat - 1) →
          panelPixel t px py = panelPixel s px py

/-- R189, 70 R280, C11: PUT_STRING whose first min(len, TEXT_MAX_CHARS) bytes and whose printable glyphs lie in memory
completes: it offers 11 + 2 × FONT_W × FONT_H tokens for each printable character among those bytes and nothing for the
others, and moves the cursor by each of them in order. -/
def Obligations.PutStringCompletes : Prop :=
  ∀ (s : State) (addr : Word) (len : Half) (q : Panel) (chars : List Byte), s.accepting → fontLegal s →
    addr.toNat + min len.toNat (textMaxChars s.params.textMax) ≤ s.params.memSize →
    chars = (List.range (min len.toNat (textMaxChars s.params.textMax))).map (fun k => readByte s.mem (addr.toNat + k)) →
    (∀ ch ∈ chars, printable ch = true → glyphInMemory s ch) →
    s.quiet (chars.countP printable * (11 + 2 * (s.fontW.toNat * s.fontH.toNat))) →
    observeAll s.params (effectTokens (effectsOf (.putString addr len) s)) s.panel = .ok q →
      exec (.putString addr len) s = .next { s.delivered (effectTokens (effectsOf (.putString addr len) s)) q with
        curX := (chars.foldl (fun xy ch => cursorAfter s xy.1 xy.2 ch) s.cursor).1
        curY := (chars.foldl (fun xy ch => cursorAfter s xy.1 xy.2 ch) s.cursor).2 } ∧
      (effectTokens (effectsOf (.putString addr len) s)).length =
        chars.countP printable * (11 + 2 * (s.fontW.toNat * s.fontH.toNat))

/-- R187, R189, R241, R246: PUT_STRING ends in the state that one PUT_CHAR for each of the bytes it consumes, in input order,
ends in, wherever those complete; and where the first of them that does not complete ends in a verdict, its own or the
observer's, or in a transport failure, PUT_STRING ends there, in the same state. -/
def Obligations.PutStringIsPutCharsInTurn : Prop :=
  ∀ (s : State) (addr : Word) (len : Half) (chars : List Byte), s.accepting → s.quiet 0 → fontLegal s →
    addr.toNat + min len.toNat (textMaxChars s.params.textMax) ≤ s.params.memSize →
    chars = (List.range (min len.toNat (textMaxChars s.params.textMax))).map (fun k => readByte s.mem (addr.toNat + k)) →
      (∀ t : State, putCharsInTurn chars s = some t → t.goodFinal → t.fault = false →
        exec (.putString addr len) s = .next t) ∧
      ∀ (pre post : List Byte) (ch : Byte) (t u : State), chars = pre ++ ch :: post → putCharsInTurn pre s = some t →
        t.goodFinal → t.fault = false → exec (.putChar ch) t = .next u → u.busy = false →
        (u.undef ≠ none ∨ u.fault = true) → exec (.putString addr len) s = .next u

/-- R190, R192, 70 R280: DRAW_CJK of an entry that exists and lies in memory completes; no register changes. BLACK: the 16 by
16 window and its 256 pixels in raster order, 523 tokens. TRANSPARENT: one Plot for each set bit, byte 0..31, bit 0..7. -/
def Obligations.DrawCjkOffersTheCell : Prop :=
  ∀ (s : State) (x y index c : Half) (q : Panel) (ts : List Token), s.accepting → index.toNat < s.cjkCount.toNat →
    s.cjkBase.toNat + 32 * index.toNat + 32 ≤ s.params.memSize →
    ((s.params.cjkBg = .black ∧
      ts = windowTokens s.params (coord x) (coord y) (coord x + 15) (coord y + 15) ++
        (List.range 16).flatMap (fun row => (List.range 16).flatMap fun col =>
          shownHalf (if cjkBitAt s index row col then c else 0))) ∨
     (s.params.cjkBg = .transparent ∧
      ts = ((List.range 32).flatMap fun k => (List.range 8).filterMap fun b =>
          if (readByte s.mem (s.cjkBase.toNat + 32 * index.toNat + k)).getLsbD b then
            some (coord x + (k % 16 : Nat), coord y + (8 * (k / 16) + b : Nat)) else none).flatMap
        (plotTokens s.params c))) →
    s.quiet ts.length → observeAll s.params ts s.panel = .ok q →
      exec (.drawCjk x y index c) s = .next (s.delivered ts q) ∧ (s.params.cjkBg = .black → ts.length = 523)

/-- R190, R192, 90_conflicts.md C8: a DRAW_CJK whose cell lies on the panel completes: exactly the set bits' places show the
color; the other places of the cell are black in BLACK mode and as before in TRANSPARENT mode; outside the cell nothing
changes. Both modes light the same pixels. -/
def Obligations.DrawCjkShowsTheGlyph : Prop :=
  ∀ (s : State) (x y index c : Half), s.accepting → index.toNat < s.cjkCount.toNat →
    s.cjkBase.toNat + 32 * index.toNat + 32 ≤ s.params.memSize → s.quiet 3328 → s.panel.settled →
    s.params.distinctCommands → s.params.offsetsFit → x.toNat + 16 ≤ s.params.columnCount.toNat →
    y.toNat + 16 ≤ s.params.lineCount.toNat →
      ∃ t, exec (.drawCjk x y index c) s = .next t ∧ t.goodFinal ∧ t.fault = false ∧
        (∀ row col : Nat, row < 16 → col < 16 →
          panelPixel t (coord x + col) (coord y + row) =
            if cjkBitAt s index row col then some c
            else match s.params.cjkBg with
              | .black => some 0
              | .transparent => panelPixel s (coord x + col) (coord y + row)) ∧
        ∀ px py : Int, outside px py (coord x) (coord y) (coord x + 15) (coord y + 15) →
          panelPixel t px py = panelPixel s px py

/-- R190, 30 R94: CjkPixel reads the cell through the inverse of CjkPixelPos, both ways round. -/
def Obligations.CjkSweepIsABijection : Prop :=
  (∀ (entry : List Byte) (k b : Nat), k < 32 → b < 8 →
    (cjkPixelPos k b).1 < 16 ∧ (cjkPixelPos k b).2 < 16 ∧
    cjkPixel entry (cjkPixelPos k b).2 (cjkPixelPos k b).1 = (entry.getD k 0).getLsbD b) ∧
  ∀ row col : Nat, row < 16 → col < 16 →
    16 * (row / 8) + col < 32 ∧ cjkPixelPos (16 * (row / 8) + col) (row % 8) = (col, row)

/-- 20_memory.md R64, R65: where the observer can take a command token, the column or row command enters COL(0) or ROW(0),
and the four DATA tokens after it set the range, big-endian, and return to IDLE; nothing else of the observer changes. -/
def Obligations.ObserverReceivesRanges : Prop :=
  ∀ (p : Params) (q : Panel) (b0 b1 b2 b3 : Byte), p.distinctCommands → q.settled →
    observe p ⟨.cmd, p.cmdCaset⟩ q = .ok { q with mode := .col [] } ∧
    observe p ⟨.cmd, p.cmdRaset⟩ q = .ok { q with mode := .row [] } ∧
    observeAll p [⟨.cmd, p.cmdCaset⟩, ⟨.data, b0⟩, ⟨.data, b1⟩, ⟨.data, b2⟩, ⟨.data, b3⟩] q =
      .ok { q with cs := some (be16 b0 b1), ce := some (be16 b2 b3), mode := .idle } ∧
    observeAll p [⟨.cmd, p.cmdRaset⟩, ⟨.data, b0⟩, ⟨.data, b1⟩, ⟨.data, b2⟩, ⟨.data, b3⟩] q =
      .ok { q with rs := some (be16 b0 b1), re := some (be16 b2 b3), mode := .idle }

/-- R68, R69: what the observer gives a verdict on: a command in a short stream or with half a pixel latched; data in IDLE; a
command inside a range; a command byte that is none of the three. R70: once it is LOST it checks no token, so it has no
verdict and stays as it is. 70 R275: so every command that offers a CMD token, in a stream that is short or has half a pixel
latched, is undefined(PANEL_SHORT) at that token, its first; no fault is reported. -/
def Obligations.ObserverRejectsBadSequences : Prop :=
  (∀ (i : Instr) (s : State), s.accepting → s.answersOk 1 → opensWindow s i → s.panel.lost = false →
    s.panel.mode = .stream → (s.panel.count < windowSize s.panel ∨ s.panel.hi ≠ none) →
    ∃ t, exec i s = .next t ∧ t.undef = some .panelShort ∧ t.fault = false ∧ t.panel = s.panel ∧
      t.trace = s.trace ++ [⟨⟨.cmd, s.params.cmdCaset⟩, .ok⟩]) ∧
  (∀ (p : Params) (q : Panel) (t : Token), q.lost = true → observe p t q = .ok q) ∧
  ∀ (p : Params) (q : Panel) (b : Byte), q.lost = false →
    (q.mode = .stream → q.count < windowSize q ∨ q.hi ≠ none → observe p ⟨.cmd, b⟩ q = .error .panelShort) ∧
    (q.mode = .idle → observe p ⟨.data, b⟩ q = .error .panelProtocol) ∧
    (∀ got, q.mode = .col got ∨ q.mode = .row got → observe p ⟨.cmd, b⟩ q = .error .panelProtocol) ∧
    (q.mode = .idle ∨ (q.mode = .stream ∧ windowSize q ≤ q.count ∧ q.hi = none) →
      b ≠ p.cmdCaset → b ≠ p.cmdRaset → b ≠ p.cmdRamwr → observe p ⟨.cmd, b⟩ q = .error .panelProtocol)

/-- R63-R67, 40 R116: a window on the panel followed by exactly as many pixels as it holds fills it in raster order: pixel j
is at (xs + j mod W, ys + j div W), every place outside the window is as before, and the stream is full. -/
def Obligations.FilledWindowShowsItsPixels : Prop :=
  ∀ (p : Params) (q : Panel) (xs ys xe ye : Half) (colors : List Half), q.settled → p.distinctCommands → p.offsetsFit →
    xs.toNat ≤ xe.toNat → xe.toNat < p.columnCount.toNat → ys.toNat ≤ ye.toNat → ye.toNat < p.lineCount.toNat →
    colors.length = (xe.toNat - xs.toNat + 1) * (ye.toNat - ys.toNat + 1) →
      ∃ q', observeAll p (shownWindow p xs ys xe ye ++ colors.flatMap shownHalf) q = .ok q' ∧ q'.full ∧ q'.lost = false ∧
        (∀ j : Nat, j < colors.length →
          imageGet q'.image (coord xs + (j % (xe.toNat - xs.toNat + 1) : Nat),
            coord ys + (j / (xe.toNat - xs.toNat + 1) : Nat)) = colors[j]?) ∧
        ∀ px py : Int, outside px py (coord xs) (coord ys) (coord xe) (coord ye) →
          imageGet q'.image (px, py) = imageGet q.image (px, py)

/-- THE FRAME of every command, 10_state.md R37: wherever it ends (normally, at a fault or a verdict, or waiting), no register
outside its row has changed, and FAULT and FAULT_CODE have changed only by a transport failure at the last token offered. The
same of every step, but a reset, of a frame's execution that waited, where a reserved opcode's frame may also raise
ILLEGAL_CMD (R244); the premise that what it has still to do is its own is in the invariant. -/
def Obligations.CommandsWriteOnlyTheirRegisters : Prop :=
  (∀ (i : Instr) (s t : State), exec i s = .next t →
    (PortFrame.command i).keepsOthers s t ∧ (t.faults = s.faults ∨ s.failedTransport t)) ∧
  ∀ (s t : State) (w : Work), s.inv = true → s.work = some w → (∀ moves, s.host ≠ .reset :: moves) → step s = .next t →
    w.frame.keepsOthers s t ∧
    (t.faults = s.faults ∨ s.failedTransport t ∨
      ((∃ opcode, w.frame = .reserved opcode) ∧ t.faults = (true, .illegalCmd) ∧ t.trace = s.trace))

/-- THE FRAME of every command, 20_memory.md R51, R58, 00 R7, R13, 70 R272, R274, R281: no command changes a byte of source
memory, a parameter, READY, or the host's side; and a command that offers no token uses up no answer of the transport and
leaves the observer alone (it may come to a wait, log 4). -/
def Obligations.CommandsKeepTheEnvironment : Prop :=
  ∀ (i : Instr) (s t : State), exec i s = .next t →
    (∀ a : Nat, readByte t.mem a = readByte s.mem a) ∧ t.params = s.params ∧ t.ready = s.ready ∧ t.host = s.host ∧
    t.reads = s.reads ∧
    (effectTokens (effectsOf i s) = [] →
      t.trace = s.trace ∧ t.panel = s.panel ∧ (t.draws = s.draws ∨ s.draws = .pause :: t.draws))

/-- 20_memory.md R58, 70 R270.3: no step drops, reorders or changes a token already offered. -/
def Obligations.OfferedTokensStay : Prop :=
  ∀ s t : State, step s = .next t → ∃ more, t.trace = s.trace ++ more

/-- 00_scope.md R7, 70 R272, R281: no step changes a parameter, and READY once 1 stays 1. Bring-up's move of the host, which
can come at any time, sets READY to 1: while BUSY = 0 or while the transport never answers it does nothing else, and a command
that waits goes on as it would have without it. That this holds too of a frame accepted with READY = 0, which keeps its
NOT_READY verdict although READY rises during the wait, is the model's choice (log 4), and no rule of the spec. -/
def Obligations.ParametersHoldForTheRun : Prop :=
  (∀ s t : State, step s = .next t → t.params = s.params ∧ (s.ready = true → t.ready = true)) ∧
  (∀ (s : State) (moves : List HostMove), s.undef = none → s.host = .raiseReady :: moves →
    (s.busy = false ∨ ∃ w, s.work = some w ∧ w.waiting = .transport) →
    step s = .next { s with host := moves, ready := true }) ∧
  ∀ (s : State) (moves : List HostMove) (w : Work), s.undef = none → s.host = .raiseReady :: moves → s.busy = true →
    s.work = some w → w.waiting = .host →
    ∃ u, step { s with host := [] } = .next u ∧ step s = .next { u with host := moves, ready := true }

/-- 20_memory.md R51, 70 R277, R281: source memory changes only where the host places a byte, while BUSY = 0, and then only
that byte; and while BUSY = 0 a byte the host places below MEM_SIZE is what is read there from then on, nothing else of the
machine changing. -/
def Obligations.MemoryChangesOnlyByTheHost : Prop :=
  (∀ (s : State) (addr : Word) (v : Byte) (moves : List HostMove), Memory.wf s.mem = true → s.undef = none →
    s.busy = false → s.host = .store addr v :: moves → addr.toNat < s.params.memSize →
    ∃ t, step s = .next t ∧ (∀ a : Nat, readByte t.mem a = if a = addr.toNat then v else readByte s.mem a) ∧
      t = { s with host := moves, mem := t.mem }) ∧
  ∀ s t : State, Memory.wf s.mem = true → step s = .next t →
    (∀ a : Nat, readByte t.mem a = readByte s.mem a) ∨
    ∃ (addr : Word) (v : Byte) (moves : List HostMove), s.host = .store addr v :: moves ∧ s.busy = false ∧
      addr.toNat < s.params.memSize ∧
      ∀ a : Nat, readByte t.mem a = if a = addr.toNat then v else readByte s.mem a

/-- The invariant holds as the machine is launched, for all parameters in range and every canonical memory below
MEM_SIZE. -/
def Obligations.LaunchMeetsTheInvariant : Prop :=
  (∀ (p : Params) (ready : Bool) (mem : List Host.Cell) (draws : List Draw) (host : List HostMove), p.ok = true →
    Memory.wf mem = true → (∀ c ∈ mem, c.1 < p.memSize) → (State.launch p ready mem draws host).inv = true) ∧
  State.reset.inv = true

/-- EVERY STEP KEEPS THE INVARIANT: parameters in range; memory canonical and below MEM_SIZE; FAULT_CODE = 0 exactly while
FAULT = 0 (R24); BUSY = 1 between steps exactly while a frame's execution is in progress (R24, R38), whose effects still to
come are of its own row (R37); the image canonical and on the panel, an open stream's pointer where its count says (R63, R66,
R67). -/
def Obligations.StepKeepsTheInvariant : Prop :=
  ∀ s t : State, s.inv = true → step s = .next t → t.inv = true
end

