-- ==== Sys2Proof/Laws/Decode.lean ====
section
/-! SUPPORT. The byte order of frame arguments (30_encoding.md R81): a value and its bytes determine one another. -/

namespace Sys2Proof

/-- Concatenation in numbers (00_scope.md R9: `a ++ b`, `a` in the more significant place). -/
theorem append_toNat {m n : Nat} (a : BitVec m) (b : BitVec n) : (a ++ b).toNat = a.toNat * 2 ^ n + b.toNat := by
  rw [BitVec.toNat_append, ← Nat.shiftLeft_add_eq_or_of_lt b.isLt, Nat.shiftLeft_eq]

/-- A u16 by its two bytes. -/
theorem be16_toNat (a b : Byte) : (be16 a b).toNat = a.toNat * 256 + b.toNat := append_toNat a b

/-- A u32 by its four bytes. -/
theorem be32_toNat (a b c d : Byte) :
    (be32 a b c d).toNat = ((a.toNat * 256 + b.toNat) * 256 + c.toNat) * 256 + d.toNat := by
  have h : (be32 a b c d).toNat = (a ++ b).toNat * 2 ^ 16 + (c ++ d).toNat := append_toNat _ _
  rw [h, append_toNat, append_toNat]
  omega

@[simp] theorem be16_bytes (v : Half) : be16 (v.extractLsb' 8 8) (v.extractLsb' 0 8) = v := by
  apply BitVec.eq_of_toNat_eq
  have h := v.isLt
  simp only [be16_toNat, BitVec.extractLsb'_toNat, Nat.shiftRight_eq_div_pow]
  omega

@[simp] theorem be32_bytes (v : Word) :
    be32 (v.extractLsb' 24 8) (v.extractLsb' 16 8) (v.extractLsb' 8 8) (v.extractLsb' 0 8) = v := by
  apply BitVec.eq_of_toNat_eq
  have h := v.isLt
  simp only [be32_toNat, BitVec.extractLsb'_toNat, Nat.shiftRight_eq_div_pow]
  omega

@[simp] theorem bytes16_be16 (a b : Byte) : bytes16 (be16 a b) = [a, b] := by
  have ha := a.isLt
  have hb := b.isLt
  simp only [bytes16, List.cons.injEq, and_true]
  constructor <;> apply BitVec.eq_of_toNat_eq <;>
    simp only [BitVec.extractLsb'_toNat, Nat.shiftRight_eq_div_pow, be16_toNat] <;> omega

@[simp] theorem bytes32_be32 (a b c d : Byte) : bytes32 (be32 a b c d) = [a, b, c, d] := by
  have ha := a.isLt
  have hb := b.isLt
  have hc := c.isLt
  have hd := d.isLt
  simp only [bytes32, List.cons.injEq, and_true]
  refine ⟨?_, ?_, ?_, ?_⟩ <;> apply BitVec.eq_of_toNat_eq <;>
    simp only [BitVec.extractLsb'_toNat, Nat.shiftRight_eq_div_pow, be32_toNat] <;> omega

end Sys2Proof
end

