-- ==== Sys2Proof/Laws/State.lean ====
section
/-! SUPPORT. The field of each update of the state, once each, so that no later proof unfolds a record update. -/

namespace Sys2Proof.Machine

@[simp] theorem endCommand_busy (s : State) : (endCommand s).busy = false := rfl
@[simp] theorem endCommand_ready (s : State) : (endCommand s).ready = s.ready := rfl
@[simp] theorem endCommand_fault (s : State) : (endCommand s).fault = s.fault := rfl
@[simp] theorem endCommand_faultCode (s : State) : (endCommand s).faultCode = s.faultCode := rfl
@[simp] theorem endCommand_curX (s : State) : (endCommand s).curX = s.curX := rfl
@[simp] theorem endCommand_curY (s : State) : (endCommand s).curY = s.curY := rfl
@[simp] theorem endCommand_curColor (s : State) : (endCommand s).curColor = s.curColor := rfl
@[simp] theorem endCommand_curCspace (s : State) : (endCommand s).curCspace = s.curCspace := rfl
@[simp] theorem endCommand_curLspace (s : State) : (endCommand s).curLspace = s.curLspace := rfl
@[simp] theorem endCommand_fontBase (s : State) : (endCommand s).fontBase = s.fontBase := rfl
@[simp] theorem endCommand_fontW (s : State) : (endCommand s).fontW = s.fontW := rfl
@[simp] theorem endCommand_fontH (s : State) : (endCommand s).fontH = s.fontH := rfl
@[simp] theorem endCommand_cjkBase (s : State) : (endCommand s).cjkBase = s.cjkBase := rfl
@[simp] theorem endCommand_cjkCount (s : State) : (endCommand s).cjkCount = s.cjkCount := rfl
@[simp] theorem endCommand_packResult (s : State) : (endCommand s).packResult = s.packResult := rfl
@[simp] theorem endCommand_undef (s : State) : (endCommand s).undef = s.undef := rfl
@[simp] theorem endCommand_work (s : State) : (endCommand s).work = none := rfl
@[simp] theorem endCommand_params (s : State) : (endCommand s).params = s.params := rfl
@[simp] theorem endCommand_mem (s : State) : (endCommand s).mem = s.mem := rfl
@[simp] theorem endCommand_draws (s : State) : (endCommand s).draws = s.draws := rfl
@[simp] theorem endCommand_trace (s : State) : (endCommand s).trace = s.trace := rfl
@[simp] theorem endCommand_panel (s : State) : (endCommand s).panel = s.panel := rfl
@[simp] theorem endCommand_host (s : State) : (endCommand s).host = s.host := rfl
@[simp] theorem endCommand_reads (s : State) : (endCommand s).reads = s.reads := rfl
@[simp] theorem endCommand_freeReads (s : State) : (endCommand s).freeReads = s.freeReads := rfl

@[simp] theorem raiseFault_busy (code : FaultCode) (s : State) : (raiseFault code s).busy = false := rfl
@[simp] theorem raiseFault_ready (code : FaultCode) (s : State) : (raiseFault code s).ready = s.ready := rfl
@[simp] theorem raiseFault_fault (code : FaultCode) (s : State) : (raiseFault code s).fault = true := rfl
@[simp] theorem raiseFault_faultCode (code : FaultCode) (s : State) : (raiseFault code s).faultCode = (if s.fault then s.faultCode else code) := rfl
@[simp] theorem raiseFault_curX (code : FaultCode) (s : State) : (raiseFault code s).curX = s.curX := rfl
@[simp] theorem raiseFault_curY (code : FaultCode) (s : State) : (raiseFault code s).curY = s.curY := rfl
@[simp] theorem raiseFault_curColor (code : FaultCode) (s : State) : (raiseFault code s).curColor = s.curColor := rfl
@[simp] theorem raiseFault_curCspace (code : FaultCode) (s : State) : (raiseFault code s).curCspace = s.curCspace := rfl
@[simp] theorem raiseFault_curLspace (code : FaultCode) (s : State) : (raiseFault code s).curLspace = s.curLspace := rfl
@[simp] theorem raiseFault_fontBase (code : FaultCode) (s : State) : (raiseFault code s).fontBase = s.fontBase := rfl
@[simp] theorem raiseFault_fontW (code : FaultCode) (s : State) : (raiseFault code s).fontW = s.fontW := rfl
@[simp] theorem raiseFault_fontH (code : FaultCode) (s : State) : (raiseFault code s).fontH = s.fontH := rfl
@[simp] theorem raiseFault_cjkBase (code : FaultCode) (s : State) : (raiseFault code s).cjkBase = s.cjkBase := rfl
@[simp] theorem raiseFault_cjkCount (code : FaultCode) (s : State) : (raiseFault code s).cjkCount = s.cjkCount := rfl
@[simp] theorem raiseFault_packResult (code : FaultCode) (s : State) : (raiseFault code s).packResult = s.packResult := rfl
@[simp] theorem raiseFault_undef (code : FaultCode) (s : State) : (raiseFault code s).undef = s.undef := rfl
@[simp] theorem raiseFault_work (code : FaultCode) (s : State) : (raiseFault code s).work = none := rfl
@[simp] theorem raiseFault_params (code : FaultCode) (s : State) : (raiseFault code s).params = s.params := rfl
@[simp] theorem raiseFault_mem (code : FaultCode) (s : State) : (raiseFault code s).mem = s.mem := rfl
@[simp] theorem raiseFault_draws (code : FaultCode) (s : State) : (raiseFault code s).draws = s.draws := rfl
@[simp] theorem raiseFault_trace (code : FaultCode) (s : State) : (raiseFault code s).trace = s.trace := rfl
@[simp] theorem raiseFault_panel (code : FaultCode) (s : State) : (raiseFault code s).panel = s.panel := rfl
@[simp] theorem raiseFault_host (code : FaultCode) (s : State) : (raiseFault code s).host = s.host := rfl
@[simp] theorem raiseFault_reads (code : FaultCode) (s : State) : (raiseFault code s).reads = s.reads := rfl
@[simp] theorem raiseFault_freeReads (code : FaultCode) (s : State) : (raiseFault code s).freeReads = s.freeReads := rfl

@[simp] theorem setUndef_busy (reason : Verdict) (s : State) : (setUndef reason s).busy = false := rfl
@[simp] theorem setUndef_ready (reason : Verdict) (s : State) : (setUndef reason s).ready = s.ready := rfl
@[simp] theorem setUndef_fault (reason : Verdict) (s : State) : (setUndef reason s).fault = s.fault := rfl
@[simp] theorem setUndef_faultCode (reason : Verdict) (s : State) : (setUndef reason s).faultCode = s.faultCode := rfl
@[simp] theorem setUndef_curX (reason : Verdict) (s : State) : (setUndef reason s).curX = s.curX := rfl
@[simp] theorem setUndef_curY (reason : Verdict) (s : State) : (setUndef reason s).curY = s.curY := rfl
@[simp] theorem setUndef_curColor (reason : Verdict) (s : State) : (setUndef reason s).curColor = s.curColor := rfl
@[simp] theorem setUndef_curCspace (reason : Verdict) (s : State) : (setUndef reason s).curCspace = s.curCspace := rfl
@[simp] theorem setUndef_curLspace (reason : Verdict) (s : State) : (setUndef reason s).curLspace = s.curLspace := rfl
@[simp] theorem setUndef_fontBase (reason : Verdict) (s : State) : (setUndef reason s).fontBase = s.fontBase := rfl
@[simp] theorem setUndef_fontW (reason : Verdict) (s : State) : (setUndef reason s).fontW = s.fontW := rfl
@[simp] theorem setUndef_fontH (reason : Verdict) (s : State) : (setUndef reason s).fontH = s.fontH := rfl
@[simp] theorem setUndef_cjkBase (reason : Verdict) (s : State) : (setUndef reason s).cjkBase = s.cjkBase := rfl
@[simp] theorem setUndef_cjkCount (reason : Verdict) (s : State) : (setUndef reason s).cjkCount = s.cjkCount := rfl
@[simp] theorem setUndef_packResult (reason : Verdict) (s : State) : (setUndef reason s).packResult = s.packResult := rfl
@[simp] theorem setUndef_undef (reason : Verdict) (s : State) : (setUndef reason s).undef = (if s.undef.isSome then s.undef else some reason) := rfl
@[simp] theorem setUndef_work (reason : Verdict) (s : State) : (setUndef reason s).work = none := rfl
@[simp] theorem setUndef_params (reason : Verdict) (s : State) : (setUndef reason s).params = s.params := rfl
@[simp] theorem setUndef_mem (reason : Verdict) (s : State) : (setUndef reason s).mem = s.mem := rfl
@[simp] theorem setUndef_draws (reason : Verdict) (s : State) : (setUndef reason s).draws = s.draws := rfl
@[simp] theorem setUndef_trace (reason : Verdict) (s : State) : (setUndef reason s).trace = s.trace := rfl
@[simp] theorem setUndef_panel (reason : Verdict) (s : State) : (setUndef reason s).panel = s.panel := rfl
@[simp] theorem setUndef_host (reason : Verdict) (s : State) : (setUndef reason s).host = s.host := rfl
@[simp] theorem setUndef_reads (reason : Verdict) (s : State) : (setUndef reason s).reads = s.reads := rfl
@[simp] theorem setUndef_freeReads (reason : Verdict) (s : State) : (setUndef reason s).freeReads = s.freeReads := rfl

@[simp] theorem resetBlock_busy (s : State) : (resetBlock s).busy = false := rfl
@[simp] theorem resetBlock_ready (s : State) : (resetBlock s).ready = s.ready := rfl
@[simp] theorem resetBlock_fault (s : State) : (resetBlock s).fault = false := rfl
@[simp] theorem resetBlock_faultCode (s : State) : (resetBlock s).faultCode = FaultCode.none := rfl
@[simp] theorem resetBlock_curX (s : State) : (resetBlock s).curX = 0 := rfl
@[simp] theorem resetBlock_curY (s : State) : (resetBlock s).curY = 0 := rfl
@[simp] theorem resetBlock_curColor (s : State) : (resetBlock s).curColor = 0 := rfl
@[simp] theorem resetBlock_curCspace (s : State) : (resetBlock s).curCspace = 0 := rfl
@[simp] theorem resetBlock_curLspace (s : State) : (resetBlock s).curLspace = 0 := rfl
@[simp] theorem resetBlock_fontBase (s : State) : (resetBlock s).fontBase = 0 := rfl
@[simp] theorem resetBlock_fontW (s : State) : (resetBlock s).fontW = 0 := rfl
@[simp] theorem resetBlock_fontH (s : State) : (resetBlock s).fontH = 0 := rfl
@[simp] theorem resetBlock_cjkBase (s : State) : (resetBlock s).cjkBase = 0 := rfl
@[simp] theorem resetBlock_cjkCount (s : State) : (resetBlock s).cjkCount = 0 := rfl
@[simp] theorem resetBlock_packResult (s : State) : (resetBlock s).packResult = 0 := rfl
@[simp] theorem resetBlock_undef (s : State) : (resetBlock s).undef = s.undef := rfl
@[simp] theorem resetBlock_work (s : State) : (resetBlock s).work = none := rfl
@[simp] theorem resetBlock_params (s : State) : (resetBlock s).params = s.params := rfl
@[simp] theorem resetBlock_mem (s : State) : (resetBlock s).mem = s.mem := rfl
@[simp] theorem resetBlock_draws (s : State) : (resetBlock s).draws = s.draws := rfl
@[simp] theorem resetBlock_trace (s : State) : (resetBlock s).trace = s.trace := rfl
@[simp] theorem resetBlock_panel (s : State) : (resetBlock s).panel = s.panel := rfl
@[simp] theorem resetBlock_host (s : State) : (resetBlock s).host = s.host := rfl
@[simp] theorem resetBlock_reads (s : State) : (resetBlock s).reads = s.reads := rfl
@[simp] theorem resetBlock_freeReads (s : State) : (resetBlock s).freeReads = s.freeReads := rfl

@[simp] theorem dropDraw_busy (s : State) : (dropDraw s).busy = s.busy := rfl
@[simp] theorem dropDraw_ready (s : State) : (dropDraw s).ready = s.ready := rfl
@[simp] theorem dropDraw_fault (s : State) : (dropDraw s).fault = s.fault := rfl
@[simp] theorem dropDraw_faultCode (s : State) : (dropDraw s).faultCode = s.faultCode := rfl
@[simp] theorem dropDraw_curX (s : State) : (dropDraw s).curX = s.curX := rfl
@[simp] theorem dropDraw_curY (s : State) : (dropDraw s).curY = s.curY := rfl
@[simp] theorem dropDraw_curColor (s : State) : (dropDraw s).curColor = s.curColor := rfl
@[simp] theorem dropDraw_curCspace (s : State) : (dropDraw s).curCspace = s.curCspace := rfl
@[simp] theorem dropDraw_curLspace (s : State) : (dropDraw s).curLspace = s.curLspace := rfl
@[simp] theorem dropDraw_fontBase (s : State) : (dropDraw s).fontBase = s.fontBase := rfl
@[simp] theorem dropDraw_fontW (s : State) : (dropDraw s).fontW = s.fontW := rfl
@[simp] theorem dropDraw_fontH (s : State) : (dropDraw s).fontH = s.fontH := rfl
@[simp] theorem dropDraw_cjkBase (s : State) : (dropDraw s).cjkBase = s.cjkBase := rfl
@[simp] theorem dropDraw_cjkCount (s : State) : (dropDraw s).cjkCount = s.cjkCount := rfl
@[simp] theorem dropDraw_packResult (s : State) : (dropDraw s).packResult = s.packResult := rfl
@[simp] theorem dropDraw_undef (s : State) : (dropDraw s).undef = s.undef := rfl
@[simp] theorem dropDraw_work (s : State) : (dropDraw s).work = s.work := rfl
@[simp] theorem dropDraw_params (s : State) : (dropDraw s).params = s.params := rfl
@[simp] theorem dropDraw_mem (s : State) : (dropDraw s).mem = s.mem := rfl
@[simp] theorem dropDraw_draws (s : State) : (dropDraw s).draws = s.draws.tail := rfl
@[simp] theorem dropDraw_trace (s : State) : (dropDraw s).trace = s.trace := rfl
@[simp] theorem dropDraw_panel (s : State) : (dropDraw s).panel = s.panel := rfl
@[simp] theorem dropDraw_host (s : State) : (dropDraw s).host = s.host := rfl
@[simp] theorem dropDraw_reads (s : State) : (dropDraw s).reads = s.reads := rfl
@[simp] theorem dropDraw_freeReads (s : State) : (dropDraw s).freeReads = s.freeReads := rfl

@[simp] theorem record_busy (t : Token) (a : Answer) (s : State) : (record t a s).busy = s.busy := rfl
@[simp] theorem record_ready (t : Token) (a : Answer) (s : State) : (record t a s).ready = s.ready := rfl
@[simp] theorem record_fault (t : Token) (a : Answer) (s : State) : (record t a s).fault = s.fault := rfl
@[simp] theorem record_faultCode (t : Token) (a : Answer) (s : State) : (record t a s).faultCode = s.faultCode := rfl
@[simp] theorem record_curX (t : Token) (a : Answer) (s : State) : (record t a s).curX = s.curX := rfl
@[simp] theorem record_curY (t : Token) (a : Answer) (s : State) : (record t a s).curY = s.curY := rfl
@[simp] theorem record_curColor (t : Token) (a : Answer) (s : State) : (record t a s).curColor = s.curColor := rfl
@[simp] theorem record_curCspace (t : Token) (a : Answer) (s : State) : (record t a s).curCspace = s.curCspace := rfl
@[simp] theorem record_curLspace (t : Token) (a : Answer) (s : State) : (record t a s).curLspace = s.curLspace := rfl
@[simp] theorem record_fontBase (t : Token) (a : Answer) (s : State) : (record t a s).fontBase = s.fontBase := rfl
@[simp] theorem record_fontW (t : Token) (a : Answer) (s : State) : (record t a s).fontW = s.fontW := rfl
@[simp] theorem record_fontH (t : Token) (a : Answer) (s : State) : (record t a s).fontH = s.fontH := rfl
@[simp] theorem record_cjkBase (t : Token) (a : Answer) (s : State) : (record t a s).cjkBase = s.cjkBase := rfl
@[simp] theorem record_cjkCount (t : Token) (a : Answer) (s : State) : (record t a s).cjkCount = s.cjkCount := rfl
@[simp] theorem record_packResult (t : Token) (a : Answer) (s : State) : (record t a s).packResult = s.packResult := rfl
@[simp] theorem record_undef (t : Token) (a : Answer) (s : State) : (record t a s).undef = s.undef := rfl
@[simp] theorem record_work (t : Token) (a : Answer) (s : State) : (record t a s).work = s.work := rfl
@[simp] theorem record_params (t : Token) (a : Answer) (s : State) : (record t a s).params = s.params := rfl
@[simp] theorem record_mem (t : Token) (a : Answer) (s : State) : (record t a s).mem = s.mem := rfl
@[simp] theorem record_draws (t : Token) (a : Answer) (s : State) : (record t a s).draws = s.draws.tail := rfl
@[simp] theorem record_trace (t : Token) (a : Answer) (s : State) : (record t a s).trace = s.trace ++ [Offer.mk t a] := rfl
@[simp] theorem record_panel (t : Token) (a : Answer) (s : State) : (record t a s).panel = s.panel := rfl
@[simp] theorem record_host (t : Token) (a : Answer) (s : State) : (record t a s).host = s.host := rfl
@[simp] theorem record_reads (t : Token) (a : Answer) (s : State) : (record t a s).reads = s.reads := rfl
@[simp] theorem record_freeReads (t : Token) (a : Answer) (s : State) : (record t a s).freeReads = s.freeReads := rfl

@[simp] theorem showPanel_busy (q : Panel) (s : State) : (showPanel q s).busy = s.busy := rfl
@[simp] theorem showPanel_ready (q : Panel) (s : State) : (showPanel q s).ready = s.ready := rfl
@[simp] theorem showPanel_fault (q : Panel) (s : State) : (showPanel q s).fault = s.fault := rfl
@[simp] theorem showPanel_faultCode (q : Panel) (s : State) : (showPanel q s).faultCode = s.faultCode := rfl
@[simp] theorem showPanel_curX (q : Panel) (s : State) : (showPanel q s).curX = s.curX := rfl
@[simp] theorem showPanel_curY (q : Panel) (s : State) : (showPanel q s).curY = s.curY := rfl
@[simp] theorem showPanel_curColor (q : Panel) (s : State) : (showPanel q s).curColor = s.curColor := rfl
@[simp] theorem showPanel_curCspace (q : Panel) (s : State) : (showPanel q s).curCspace = s.curCspace := rfl
@[simp] theorem showPanel_curLspace (q : Panel) (s : State) : (showPanel q s).curLspace = s.curLspace := rfl
@[simp] theorem showPanel_fontBase (q : Panel) (s : State) : (showPanel q s).fontBase = s.fontBase := rfl
@[simp] theorem showPanel_fontW (q : Panel) (s : State) : (showPanel q s).fontW = s.fontW := rfl
@[simp] theorem showPanel_fontH (q : Panel) (s : State) : (showPanel q s).fontH = s.fontH := rfl
@[simp] theorem showPanel_cjkBase (q : Panel) (s : State) : (showPanel q s).cjkBase = s.cjkBase := rfl
@[simp] theorem showPanel_cjkCount (q : Panel) (s : State) : (showPanel q s).cjkCount = s.cjkCount := rfl
@[simp] theorem showPanel_packResult (q : Panel) (s : State) : (showPanel q s).packResult = s.packResult := rfl
@[simp] theorem showPanel_undef (q : Panel) (s : State) : (showPanel q s).undef = s.undef := rfl
@[simp] theorem showPanel_work (q : Panel) (s : State) : (showPanel q s).work = s.work := rfl
@[simp] theorem showPanel_params (q : Panel) (s : State) : (showPanel q s).params = s.params := rfl
@[simp] theorem showPanel_mem (q : Panel) (s : State) : (showPanel q s).mem = s.mem := rfl
@[simp] theorem showPanel_draws (q : Panel) (s : State) : (showPanel q s).draws = s.draws := rfl
@[simp] theorem showPanel_trace (q : Panel) (s : State) : (showPanel q s).trace = s.trace := rfl
@[simp] theorem showPanel_panel (q : Panel) (s : State) : (showPanel q s).panel = q := rfl
@[simp] theorem showPanel_host (q : Panel) (s : State) : (showPanel q s).host = s.host := rfl
@[simp] theorem showPanel_reads (q : Panel) (s : State) : (showPanel q s).reads = s.reads := rfl
@[simp] theorem showPanel_freeReads (q : Panel) (s : State) : (showPanel q s).freeReads = s.freeReads := rfl

@[simp] theorem losePanel_busy (s : State) : (losePanel s).busy = s.busy := rfl
@[simp] theorem losePanel_ready (s : State) : (losePanel s).ready = s.ready := rfl
@[simp] theorem losePanel_fault (s : State) : (losePanel s).fault = s.fault := rfl
@[simp] theorem losePanel_faultCode (s : State) : (losePanel s).faultCode = s.faultCode := rfl
@[simp] theorem losePanel_curX (s : State) : (losePanel s).curX = s.curX := rfl
@[simp] theorem losePanel_curY (s : State) : (losePanel s).curY = s.curY := rfl
@[simp] theorem losePanel_curColor (s : State) : (losePanel s).curColor = s.curColor := rfl
@[simp] theorem losePanel_curCspace (s : State) : (losePanel s).curCspace = s.curCspace := rfl
@[simp] theorem losePanel_curLspace (s : State) : (losePanel s).curLspace = s.curLspace := rfl
@[simp] theorem losePanel_fontBase (s : State) : (losePanel s).fontBase = s.fontBase := rfl
@[simp] theorem losePanel_fontW (s : State) : (losePanel s).fontW = s.fontW := rfl
@[simp] theorem losePanel_fontH (s : State) : (losePanel s).fontH = s.fontH := rfl
@[simp] theorem losePanel_cjkBase (s : State) : (losePanel s).cjkBase = s.cjkBase := rfl
@[simp] theorem losePanel_cjkCount (s : State) : (losePanel s).cjkCount = s.cjkCount := rfl
@[simp] theorem losePanel_packResult (s : State) : (losePanel s).packResult = s.packResult := rfl
@[simp] theorem losePanel_undef (s : State) : (losePanel s).undef = s.undef := rfl
@[simp] theorem losePanel_work (s : State) : (losePanel s).work = s.work := rfl
@[simp] theorem losePanel_params (s : State) : (losePanel s).params = s.params := rfl
@[simp] theorem losePanel_mem (s : State) : (losePanel s).mem = s.mem := rfl
@[simp] theorem losePanel_draws (s : State) : (losePanel s).draws = s.draws := rfl
@[simp] theorem losePanel_trace (s : State) : (losePanel s).trace = s.trace := rfl
@[simp] theorem losePanel_panel (s : State) : (losePanel s).panel = { s.panel with lost := true } := rfl
@[simp] theorem losePanel_host (s : State) : (losePanel s).host = s.host := rfl
@[simp] theorem losePanel_reads (s : State) : (losePanel s).reads = s.reads := rfl
@[simp] theorem losePanel_freeReads (s : State) : (losePanel s).freeReads = s.freeReads := rfl

@[simp] theorem suspend_busy (f : PortFrame) (rest : List Effect) (w : Waiting) (s : State) : (suspend f rest w s).busy = true := rfl
@[simp] theorem suspend_ready (f : PortFrame) (rest : List Effect) (w : Waiting) (s : State) : (suspend f rest w s).ready = s.ready := rfl
@[simp] theorem suspend_fault (f : PortFrame) (rest : List Effect) (w : Waiting) (s : State) : (suspend f rest w s).fault = s.fault := rfl
@[simp] theorem suspend_faultCode (f : PortFrame) (rest : List Effect) (w : Waiting) (s : State) : (suspend f rest w s).faultCode = s.faultCode := rfl
@[simp] theorem suspend_curX (f : PortFrame) (rest : List Effect) (w : Waiting) (s : State) : (suspend f rest w s).curX = s.curX := rfl
@[simp] theorem suspend_curY (f : PortFrame) (rest : List Effect) (w : Waiting) (s : State) : (suspend f rest w s).curY = s.curY := rfl
@[simp] theorem suspend_curColor (f : PortFrame) (rest : List Effect) (w : Waiting) (s : State) : (suspend f rest w s).curColor = s.curColor := rfl
@[simp] theorem suspend_curCspace (f : PortFrame) (rest : List Effect) (w : Waiting) (s : State) : (suspend f rest w s).curCspace = s.curCspace := rfl
@[simp] theorem suspend_curLspace (f : PortFrame) (rest : List Effect) (w : Waiting) (s : State) : (suspend f rest w s).curLspace = s.curLspace := rfl
@[simp] theorem suspend_fontBase (f : PortFrame) (rest : List Effect) (w : Waiting) (s : State) : (suspend f rest w s).fontBase = s.fontBase := rfl
@[simp] theorem suspend_fontW (f : PortFrame) (rest : List Effect) (w : Waiting) (s : State) : (suspend f rest w s).fontW = s.fontW := rfl
@[simp] theorem suspend_fontH (f : PortFrame) (rest : List Effect) (w : Waiting) (s : State) : (suspend f rest w s).fontH = s.fontH := rfl
@[simp] theorem suspend_cjkBase (f : PortFrame) (rest : List Effect) (w : Waiting) (s : State) : (suspend f rest w s).cjkBase = s.cjkBase := rfl
@[simp] theorem suspend_cjkCount (f : PortFrame) (rest : List Effect) (w : Waiting) (s : State) : (suspend f rest w s).cjkCount = s.cjkCount := rfl
@[simp] theorem suspend_packResult (f : PortFrame) (rest : List Effect) (w : Waiting) (s : State) : (suspend f rest w s).packResult = s.packResult := rfl
@[simp] theorem suspend_undef (f : PortFrame) (rest : List Effect) (w : Waiting) (s : State) : (suspend f rest w s).undef = s.undef := rfl
@[simp] theorem suspend_work (f : PortFrame) (rest : List Effect) (w : Waiting) (s : State) : (suspend f rest w s).work = some ⟨f, rest, w⟩ := rfl
@[simp] theorem suspend_params (f : PortFrame) (rest : List Effect) (w : Waiting) (s : State) : (suspend f rest w s).params = s.params := rfl
@[simp] theorem suspend_mem (f : PortFrame) (rest : List Effect) (w : Waiting) (s : State) : (suspend f rest w s).mem = s.mem := rfl
@[simp] theorem suspend_draws (f : PortFrame) (rest : List Effect) (w : Waiting) (s : State) : (suspend f rest w s).draws = s.draws := rfl
@[simp] theorem suspend_trace (f : PortFrame) (rest : List Effect) (w : Waiting) (s : State) : (suspend f rest w s).trace = s.trace := rfl
@[simp] theorem suspend_panel (f : PortFrame) (rest : List Effect) (w : Waiting) (s : State) : (suspend f rest w s).panel = s.panel := rfl
@[simp] theorem suspend_host (f : PortFrame) (rest : List Effect) (w : Waiting) (s : State) : (suspend f rest w s).host = s.host := rfl
@[simp] theorem suspend_reads (f : PortFrame) (rest : List Effect) (w : Waiting) (s : State) : (suspend f rest w s).reads = s.reads := rfl
@[simp] theorem suspend_freeReads (f : PortFrame) (rest : List Effect) (w : Waiting) (s : State) : (suspend f rest w s).freeReads = s.freeReads := rfl

@[simp] theorem portRead_busy (n : Byte) (s : State) : (portRead n s).busy = s.busy := rfl
@[simp] theorem portRead_ready (n : Byte) (s : State) : (portRead n s).ready = s.ready := rfl
@[simp] theorem portRead_fault (n : Byte) (s : State) : (portRead n s).fault = s.fault := rfl
@[simp] theorem portRead_faultCode (n : Byte) (s : State) : (portRead n s).faultCode = s.faultCode := rfl
@[simp] theorem portRead_curX (n : Byte) (s : State) : (portRead n s).curX = s.curX := rfl
@[simp] theorem portRead_curY (n : Byte) (s : State) : (portRead n s).curY = s.curY := rfl
@[simp] theorem portRead_curColor (n : Byte) (s : State) : (portRead n s).curColor = s.curColor := rfl
@[simp] theorem portRead_curCspace (n : Byte) (s : State) : (portRead n s).curCspace = s.curCspace := rfl
@[simp] theorem portRead_curLspace (n : Byte) (s : State) : (portRead n s).curLspace = s.curLspace := rfl
@[simp] theorem portRead_fontBase (n : Byte) (s : State) : (portRead n s).fontBase = s.fontBase := rfl
@[simp] theorem portRead_fontW (n : Byte) (s : State) : (portRead n s).fontW = s.fontW := rfl
@[simp] theorem portRead_fontH (n : Byte) (s : State) : (portRead n s).fontH = s.fontH := rfl
@[simp] theorem portRead_cjkBase (n : Byte) (s : State) : (portRead n s).cjkBase = s.cjkBase := rfl
@[simp] theorem portRead_cjkCount (n : Byte) (s : State) : (portRead n s).cjkCount = s.cjkCount := rfl
@[simp] theorem portRead_packResult (n : Byte) (s : State) : (portRead n s).packResult = s.packResult := rfl
@[simp] theorem portRead_undef (n : Byte) (s : State) : (portRead n s).undef = s.undef := rfl
@[simp] theorem portRead_work (n : Byte) (s : State) : (portRead n s).work = s.work := rfl
@[simp] theorem portRead_params (n : Byte) (s : State) : (portRead n s).params = s.params := rfl
@[simp] theorem portRead_mem (n : Byte) (s : State) : (portRead n s).mem = s.mem := rfl
@[simp] theorem portRead_draws (n : Byte) (s : State) : (portRead n s).draws = s.draws := rfl
@[simp] theorem portRead_trace (n : Byte) (s : State) : (portRead n s).trace = s.trace := rfl
@[simp] theorem portRead_panel (n : Byte) (s : State) : (portRead n s).panel = s.panel := rfl
@[simp] theorem portRead_host (n : Byte) (s : State) : (portRead n s).host = s.host := rfl
@[simp] theorem portRead_reads (n : Byte) (s : State) : (portRead n s).reads = s.reads ++ [RegRead.mk n (readRegister s n)] := rfl
@[simp] theorem portRead_freeReads (n : Byte) (s : State) : (portRead n s).freeReads = (if readIsFree s n then s.freeReads + 1 else s.freeReads) := rfl

@[simp] theorem withHost_busy (moves : List HostMove) (s : State) : (withHost moves s).busy = s.busy := rfl
@[simp] theorem withHost_ready (moves : List HostMove) (s : State) : (withHost moves s).ready = s.ready := rfl
@[simp] theorem withHost_fault (moves : List HostMove) (s : State) : (withHost moves s).fault = s.fault := rfl
@[simp] theorem withHost_faultCode (moves : List HostMove) (s : State) : (withHost moves s).faultCode = s.faultCode := rfl
@[simp] theorem withHost_curX (moves : List HostMove) (s : State) : (withHost moves s).curX = s.curX := rfl
@[simp] theorem withHost_curY (moves : List HostMove) (s : State) : (withHost moves s).curY = s.curY := rfl
@[simp] theorem withHost_curColor (moves : List HostMove) (s : State) : (withHost moves s).curColor = s.curColor := rfl
@[simp] theorem withHost_curCspace (moves : List HostMove) (s : State) : (withHost moves s).curCspace = s.curCspace := rfl
@[simp] theorem withHost_curLspace (moves : List HostMove) (s : State) : (withHost moves s).curLspace = s.curLspace := rfl
@[simp] theorem withHost_fontBase (moves : List HostMove) (s : State) : (withHost moves s).fontBase = s.fontBase := rfl
@[simp] theorem withHost_fontW (moves : List HostMove) (s : State) : (withHost moves s).fontW = s.fontW := rfl
@[simp] theorem withHost_fontH (moves : List HostMove) (s : State) : (withHost moves s).fontH = s.fontH := rfl
@[simp] theorem withHost_cjkBase (moves : List HostMove) (s : State) : (withHost moves s).cjkBase = s.cjkBase := rfl
@[simp] theorem withHost_cjkCount (moves : List HostMove) (s : State) : (withHost moves s).cjkCount = s.cjkCount := rfl
@[simp] theorem withHost_packResult (moves : List HostMove) (s : State) : (withHost moves s).packResult = s.packResult := rfl
@[simp] theorem withHost_undef (moves : List HostMove) (s : State) : (withHost moves s).undef = s.undef := rfl
@[simp] theorem withHost_work (moves : List HostMove) (s : State) : (withHost moves s).work = s.work := rfl
@[simp] theorem withHost_params (moves : List HostMove) (s : State) : (withHost moves s).params = s.params := rfl
@[simp] theorem withHost_mem (moves : List HostMove) (s : State) : (withHost moves s).mem = s.mem := rfl
@[simp] theorem withHost_draws (moves : List HostMove) (s : State) : (withHost moves s).draws = s.draws := rfl
@[simp] theorem withHost_trace (moves : List HostMove) (s : State) : (withHost moves s).trace = s.trace := rfl
@[simp] theorem withHost_panel (moves : List HostMove) (s : State) : (withHost moves s).panel = s.panel := rfl
@[simp] theorem withHost_host (moves : List HostMove) (s : State) : (withHost moves s).host = moves := rfl
@[simp] theorem withHost_reads (moves : List HostMove) (s : State) : (withHost moves s).reads = s.reads := rfl
@[simp] theorem withHost_freeReads (moves : List HostMove) (s : State) : (withHost moves s).freeReads = s.freeReads := rfl

@[simp] theorem raiseReady_busy (s : State) : (raiseReady s).busy = s.busy := rfl
@[simp] theorem raiseReady_ready (s : State) : (raiseReady s).ready = true := rfl
@[simp] theorem raiseReady_fault (s : State) : (raiseReady s).fault = s.fault := rfl
@[simp] theorem raiseReady_faultCode (s : State) : (raiseReady s).faultCode = s.faultCode := rfl
@[simp] theorem raiseReady_curX (s : State) : (raiseReady s).curX = s.curX := rfl
@[simp] theorem raiseReady_curY (s : State) : (raiseReady s).curY = s.curY := rfl
@[simp] theorem raiseReady_curColor (s : State) : (raiseReady s).curColor = s.curColor := rfl
@[simp] theorem raiseReady_curCspace (s : State) : (raiseReady s).curCspace = s.curCspace := rfl
@[simp] theorem raiseReady_curLspace (s : State) : (raiseReady s).curLspace = s.curLspace := rfl
@[simp] theorem raiseReady_fontBase (s : State) : (raiseReady s).fontBase = s.fontBase := rfl
@[simp] theorem raiseReady_fontW (s : State) : (raiseReady s).fontW = s.fontW := rfl
@[simp] theorem raiseReady_fontH (s : State) : (raiseReady s).fontH = s.fontH := rfl
@[simp] theorem raiseReady_cjkBase (s : State) : (raiseReady s).cjkBase = s.cjkBase := rfl
@[simp] theorem raiseReady_cjkCount (s : State) : (raiseReady s).cjkCount = s.cjkCount := rfl
@[simp] theorem raiseReady_packResult (s : State) : (raiseReady s).packResult = s.packResult := rfl
@[simp] theorem raiseReady_undef (s : State) : (raiseReady s).undef = s.undef := rfl
@[simp] theorem raiseReady_work (s : State) : (raiseReady s).work = s.work := rfl
@[simp] theorem raiseReady_params (s : State) : (raiseReady s).params = s.params := rfl
@[simp] theorem raiseReady_mem (s : State) : (raiseReady s).mem = s.mem := rfl
@[simp] theorem raiseReady_draws (s : State) : (raiseReady s).draws = s.draws := rfl
@[simp] theorem raiseReady_trace (s : State) : (raiseReady s).trace = s.trace := rfl
@[simp] theorem raiseReady_panel (s : State) : (raiseReady s).panel = s.panel := rfl
@[simp] theorem raiseReady_host (s : State) : (raiseReady s).host = s.host := rfl
@[simp] theorem raiseReady_reads (s : State) : (raiseReady s).reads = s.reads := rfl
@[simp] theorem raiseReady_freeReads (s : State) : (raiseReady s).freeReads = s.freeReads := rfl

@[simp] theorem presentFrame_busy (bytes : List Byte) (s : State) : (presentFrame bytes s).busy = s.busy := rfl
@[simp] theorem presentFrame_ready (bytes : List Byte) (s : State) : (presentFrame bytes s).ready = s.ready := rfl
@[simp] theorem presentFrame_fault (bytes : List Byte) (s : State) : (presentFrame bytes s).fault = s.fault := rfl
@[simp] theorem presentFrame_faultCode (bytes : List Byte) (s : State) : (presentFrame bytes s).faultCode = s.faultCode := rfl
@[simp] theorem presentFrame_curX (bytes : List Byte) (s : State) : (presentFrame bytes s).curX = s.curX := rfl
@[simp] theorem presentFrame_curY (bytes : List Byte) (s : State) : (presentFrame bytes s).curY = s.curY := rfl
@[simp] theorem presentFrame_curColor (bytes : List Byte) (s : State) : (presentFrame bytes s).curColor = s.curColor := rfl
@[simp] theorem presentFrame_curCspace (bytes : List Byte) (s : State) : (presentFrame bytes s).curCspace = s.curCspace := rfl
@[simp] theorem presentFrame_curLspace (bytes : List Byte) (s : State) : (presentFrame bytes s).curLspace = s.curLspace := rfl
@[simp] theorem presentFrame_fontBase (bytes : List Byte) (s : State) : (presentFrame bytes s).fontBase = s.fontBase := rfl
@[simp] theorem presentFrame_fontW (bytes : List Byte) (s : State) : (presentFrame bytes s).fontW = s.fontW := rfl
@[simp] theorem presentFrame_fontH (bytes : List Byte) (s : State) : (presentFrame bytes s).fontH = s.fontH := rfl
@[simp] theorem presentFrame_cjkBase (bytes : List Byte) (s : State) : (presentFrame bytes s).cjkBase = s.cjkBase := rfl
@[simp] theorem presentFrame_cjkCount (bytes : List Byte) (s : State) : (presentFrame bytes s).cjkCount = s.cjkCount := rfl
@[simp] theorem presentFrame_packResult (bytes : List Byte) (s : State) : (presentFrame bytes s).packResult = s.packResult := rfl
@[simp] theorem presentFrame_undef (bytes : List Byte) (s : State) : (presentFrame bytes s).undef = s.undef := rfl
@[simp] theorem presentFrame_work (bytes : List Byte) (s : State) : (presentFrame bytes s).work = s.work := rfl
@[simp] theorem presentFrame_params (bytes : List Byte) (s : State) : (presentFrame bytes s).params = s.params := rfl
@[simp] theorem presentFrame_mem (bytes : List Byte) (s : State) : (presentFrame bytes s).mem = s.mem := rfl
@[simp] theorem presentFrame_draws (bytes : List Byte) (s : State) : (presentFrame bytes s).draws = s.draws := rfl
@[simp] theorem presentFrame_trace (bytes : List Byte) (s : State) : (presentFrame bytes s).trace = s.trace := rfl
@[simp] theorem presentFrame_panel (bytes : List Byte) (s : State) : (presentFrame bytes s).panel = s.panel := rfl
@[simp] theorem presentFrame_host (bytes : List Byte) (s : State) : (presentFrame bytes s).host = .send bytes :: s.host := rfl
@[simp] theorem presentFrame_reads (bytes : List Byte) (s : State) : (presentFrame bytes s).reads = s.reads := rfl
@[simp] theorem presentFrame_freeReads (bytes : List Byte) (s : State) : (presentFrame bytes s).freeReads = s.freeReads := rfl

@[simp] theorem delivered_busy (ts : List Token) (q : Panel) (s : State) : (s.delivered ts q).busy = s.busy := rfl
@[simp] theorem delivered_ready (ts : List Token) (q : Panel) (s : State) : (s.delivered ts q).ready = s.ready := rfl
@[simp] theorem delivered_fault (ts : List Token) (q : Panel) (s : State) : (s.delivered ts q).fault = s.fault := rfl
@[simp] theorem delivered_faultCode (ts : List Token) (q : Panel) (s : State) : (s.delivered ts q).faultCode = s.faultCode := rfl
@[simp] theorem delivered_curX (ts : List Token) (q : Panel) (s : State) : (s.delivered ts q).curX = s.curX := rfl
@[simp] theorem delivered_curY (ts : List Token) (q : Panel) (s : State) : (s.delivered ts q).curY = s.curY := rfl
@[simp] theorem delivered_curColor (ts : List Token) (q : Panel) (s : State) : (s.delivered ts q).curColor = s.curColor := rfl
@[simp] theorem delivered_curCspace (ts : List Token) (q : Panel) (s : State) : (s.delivered ts q).curCspace = s.curCspace := rfl
@[simp] theorem delivered_curLspace (ts : List Token) (q : Panel) (s : State) : (s.delivered ts q).curLspace = s.curLspace := rfl
@[simp] theorem delivered_fontBase (ts : List Token) (q : Panel) (s : State) : (s.delivered ts q).fontBase = s.fontBase := rfl
@[simp] theorem delivered_fontW (ts : List Token) (q : Panel) (s : State) : (s.delivered ts q).fontW = s.fontW := rfl
@[simp] theorem delivered_fontH (ts : List Token) (q : Panel) (s : State) : (s.delivered ts q).fontH = s.fontH := rfl
@[simp] theorem delivered_cjkBase (ts : List Token) (q : Panel) (s : State) : (s.delivered ts q).cjkBase = s.cjkBase := rfl
@[simp] theorem delivered_cjkCount (ts : List Token) (q : Panel) (s : State) : (s.delivered ts q).cjkCount = s.cjkCount := rfl
@[simp] theorem delivered_packResult (ts : List Token) (q : Panel) (s : State) : (s.delivered ts q).packResult = s.packResult := rfl
@[simp] theorem delivered_undef (ts : List Token) (q : Panel) (s : State) : (s.delivered ts q).undef = s.undef := rfl
@[simp] theorem delivered_work (ts : List Token) (q : Panel) (s : State) : (s.delivered ts q).work = s.work := rfl
@[simp] theorem delivered_params (ts : List Token) (q : Panel) (s : State) : (s.delivered ts q).params = s.params := rfl
@[simp] theorem delivered_mem (ts : List Token) (q : Panel) (s : State) : (s.delivered ts q).mem = s.mem := rfl
@[simp] theorem delivered_draws (ts : List Token) (q : Panel) (s : State) : (s.delivered ts q).draws = s.draws.drop ts.length := rfl
@[simp] theorem delivered_trace (ts : List Token) (q : Panel) (s : State) : (s.delivered ts q).trace = s.trace ++ ts.map (Offer.mk · .ok) := rfl
@[simp] theorem delivered_panel (ts : List Token) (q : Panel) (s : State) : (s.delivered ts q).panel = q := rfl
@[simp] theorem delivered_host (ts : List Token) (q : Panel) (s : State) : (s.delivered ts q).host = s.host := rfl
@[simp] theorem delivered_reads (ts : List Token) (q : Panel) (s : State) : (s.delivered ts q).reads = s.reads := rfl
@[simp] theorem delivered_freeReads (ts : List Token) (q : Panel) (s : State) : (s.delivered ts q).freeReads = s.freeReads := rfl

@[simp] theorem writeRegister_curX (v : Half) (s : State) : writeRegister (.curX v) s = { s with curX := v } := rfl
@[simp] theorem writeRegister_curY (v : Half) (s : State) : writeRegister (.curY v) s = { s with curY := v } := rfl
@[simp] theorem writeRegister_curColor (v : Half) (s : State) : writeRegister (.curColor v) s = { s with curColor := v } := rfl
@[simp] theorem writeRegister_curCspace (v : Half) (s : State) : writeRegister (.curCspace v) s = { s with curCspace := v } := rfl
@[simp] theorem writeRegister_curLspace (v : Half) (s : State) : writeRegister (.curLspace v) s = { s with curLspace := v } := rfl
@[simp] theorem writeRegister_fontBase (v : Word) (s : State) : writeRegister (.fontBase v) s = { s with fontBase := v } := rfl
@[simp] theorem writeRegister_fontW (v : Byte) (s : State) : writeRegister (.fontW v) s = { s with fontW := v } := rfl
@[simp] theorem writeRegister_fontH (v : Byte) (s : State) : writeRegister (.fontH v) s = { s with fontH := v } := rfl
@[simp] theorem writeRegister_cjkBase (v : Word) (s : State) : writeRegister (.cjkBase v) s = { s with cjkBase := v } := rfl
@[simp] theorem writeRegister_cjkCount (v : Half) (s : State) : writeRegister (.cjkCount v) s = { s with cjkCount := v } := rfl
@[simp] theorem writeRegister_packResult (v : Half) (s : State) : writeRegister (.packResult v) s = { s with packResult := v } := rfl

@[simp] theorem writeRegister_keeps_busy (w : RegWrite) (s : State) : (writeRegister w s).busy = s.busy := by cases w <;> rfl
@[simp] theorem writeRegister_keeps_ready (w : RegWrite) (s : State) : (writeRegister w s).ready = s.ready := by cases w <;> rfl
@[simp] theorem writeRegister_keeps_fault (w : RegWrite) (s : State) : (writeRegister w s).fault = s.fault := by cases w <;> rfl
@[simp] theorem writeRegister_keeps_faultCode (w : RegWrite) (s : State) : (writeRegister w s).faultCode = s.faultCode := by cases w <;> rfl
@[simp] theorem writeRegister_keeps_undef (w : RegWrite) (s : State) : (writeRegister w s).undef = s.undef := by cases w <;> rfl
@[simp] theorem writeRegister_keeps_work (w : RegWrite) (s : State) : (writeRegister w s).work = s.work := by cases w <;> rfl
@[simp] theorem writeRegister_keeps_params (w : RegWrite) (s : State) : (writeRegister w s).params = s.params := by cases w <;> rfl
@[simp] theorem writeRegister_keeps_mem (w : RegWrite) (s : State) : (writeRegister w s).mem = s.mem := by cases w <;> rfl
@[simp] theorem writeRegister_keeps_draws (w : RegWrite) (s : State) : (writeRegister w s).draws = s.draws := by cases w <;> rfl
@[simp] theorem writeRegister_keeps_trace (w : RegWrite) (s : State) : (writeRegister w s).trace = s.trace := by cases w <;> rfl
@[simp] theorem writeRegister_keeps_panel (w : RegWrite) (s : State) : (writeRegister w s).panel = s.panel := by cases w <;> rfl
@[simp] theorem writeRegister_keeps_host (w : RegWrite) (s : State) : (writeRegister w s).host = s.host := by cases w <;> rfl
@[simp] theorem writeRegister_keeps_reads (w : RegWrite) (s : State) : (writeRegister w s).reads = s.reads := by cases w <;> rfl
@[simp] theorem writeRegister_keeps_freeReads (w : RegWrite) (s : State) : (writeRegister w s).freeReads = s.freeReads := by cases w <;> rfl

end Sys2Proof.Machine
end

