-- ==== Sys2Proof/Laws/Memory.lean ====
section
/-! SUPPORT. Source memory and the image: read after write, and the canonical forms every operation keeps. -/

namespace Sys2Proof.Machine

/-- The canonical form, one entry at a time. -/
theorem Memory.wf_cons (c : Host.Cell) (m : List Host.Cell) :
    Memory.wf (c :: m) = true ↔ c.2 ≠ unwrittenByte ∧ (∀ d ∈ m.head?, c.1 < d.1) ∧ Memory.wf m = true := by
  obtain ⟨a, b⟩ := c
  cases m with
  | nil => simp [Memory.wf]
  | cons d m => obtain ⟨a', b'⟩ := d; simp [Memory.wf, and_assoc, and_left_comm]

/-- No entry of a canonical memory lies below its first. -/
theorem readByte_below_head {m : List Host.Cell} (hm : Memory.wf m = true) {addr : Nat}
    (h : ∀ d ∈ m.head?, addr < d.1) : readByte m addr = unwrittenByte := by
  induction m with
  | nil => rfl
  | cons c m ih =>
    obtain ⟨a, b⟩ := c
    obtain ⟨-, hlt, hwf⟩ := (Memory.wf_cons _ _).1 hm
    have ha : addr < a := by simpa using h
    have hne : a ≠ addr := by omega
    simp only [readByte, hne, if_false]
    exact ih hwf fun d hd => lt_trans ha (hlt d hd)

/-- The first address after a write. -/
theorem writeByte_head (m : List Host.Cell) (addr : Nat) (v : Byte) (hm : Memory.wf m = true) (lo : Nat) (hlo : lo < addr)
    (h : ∀ d ∈ m.head?, lo < d.1) : ∀ d ∈ (writeByte m addr v).head?, lo < d.1 := by
  cases m with
  | nil =>
    intro d hd
    simp only [writeByte] at hd
    split at hd
    · simp at hd
    · simp at hd; subst hd; exact hlo
  | cons c m =>
    obtain ⟨a, b⟩ := c
    obtain ⟨-, hlt, -⟩ := (Memory.wf_cons _ _).1 hm
    have ha : lo < a := by simpa using h
    intro d hd
    simp only [writeByte] at hd
    split at hd
    · split at hd
      · exact h d hd
      · simp at hd; subst hd; exact hlo
    · split at hd
      · split at hd
        · exact lt_trans ha (hlt d hd)
        · simp at hd; subst hd; exact hlo
      · simp at hd; subst hd; exact ha

/-- A write keeps the canonical form. -/
theorem writeByte_wf (m : List Host.Cell) (addr : Nat) (v : Byte) (hm : Memory.wf m = true) :
    Memory.wf (writeByte m addr v) = true := by
  induction m with
  | nil => simp only [writeByte]; split <;> simp_all [Memory.wf]
  | cons c m ih =>
    obtain ⟨a, b⟩ := c
    obtain ⟨hb, hlt, hwf⟩ := (Memory.wf_cons _ _).1 hm
    simp only [writeByte]
    split
    · rename_i hlo
      split
      · exact hm
      · rename_i hv
        exact (Memory.wf_cons _ _).2 ⟨hv, by simpa using hlo, hm⟩
    · split
      · rename_i heq
        split
        · exact hwf
        · rename_i hv
          exact (Memory.wf_cons _ _).2 ⟨hv, by simpa [heq] using hlt, hwf⟩
      · rename_i h1 h2
        exact (Memory.wf_cons _ _).2
          ⟨hb, writeByte_head m addr v hwf a (by omega) hlt, ih hwf⟩

/-- Read after write: the written byte at its address, every other byte as before. -/
theorem readByte_writeByte (m : List Host.Cell) (hm : Memory.wf m = true) (addr : Nat) (v : Byte) (a : Nat) :
    readByte (writeByte m addr v) a = if a = addr then v else readByte m a := by
  induction m with
  | nil =>
    simp only [writeByte]
    have hs : (addr = a) = (a = addr) := propext eq_comm
    by_cases hv : v = unwrittenByte <;> by_cases ha : a = addr <;> simp [hv, ha, readByte, hs]
  | cons c m ih =>
    obtain ⟨a', b⟩ := c
    obtain ⟨hb, hlt, hwf⟩ := (Memory.wf_cons _ _).1 hm
    simp only [writeByte]
    split
    · rename_i hlo
      have hz : readByte ((a', b) :: m) addr = unwrittenByte := readByte_below_head hm (by simpa using hlo)
      split
      · rename_i hv
        by_cases ha : a = addr
        · rw [if_pos ha, ha, hz, hv]
        · rw [if_neg ha]
      · by_cases ha : a = addr
        · simp [readByte, ha]
        · have : addr ≠ a := fun h => ha h.symm
          simp [readByte, ha, this]
    · split
      · rename_i h1 heq
        subst heq
        have hz : readByte m addr = unwrittenByte := readByte_below_head hwf hlt
        split
        · rename_i hv
          by_cases ha : a = addr
          · rw [if_pos ha, ha, hz, hv]
          · have : addr ≠ a := fun h => ha h.symm
            simp [readByte, ha, this]
        · by_cases ha : a = addr
          · simp [readByte, ha]
          · have : addr ≠ a := fun h => ha h.symm
            simp [readByte, ha, this]
      · rename_i h1 h2
        by_cases ha : a' = a
        · have : a ≠ addr := by omega
          simp [readByte, ha, this]
        · simp [readByte, ha, ih hwf]

/-- Every address of a memory after a write is one it had or the written one. -/
theorem mem_writeByte {m : List Host.Cell} {addr : Nat} {v : Byte} {c : Host.Cell} (h : c ∈ writeByte m addr v) :
    c ∈ m ∨ c.1 = addr := by
  induction m with
  | nil => simp only [writeByte] at h; split at h <;> simp_all
  | cons d m ih =>
    obtain ⟨a, b⟩ := d
    simp only [writeByte] at h
    split at h
    · split at h <;> simp_all
      rcases h with h | h | h <;> simp [h]
    · split at h
      · split at h
        · simp [h]
        · simp at h; rcases h with h | h <;> simp [h]
      · simp at h
        rcases h with h | h
        · simp [h]
        · rcases ih h with h | h <;> simp [h]

/-- Raster order is a strict order on places. -/
theorem rasterBefore_iff (a b : Int × Int) : rasterBefore a b = true ↔ a.2 < b.2 ∨ (a.2 = b.2 ∧ a.1 < b.1) := by
  simp [rasterBefore]

/-- Raster order is transitive. -/
theorem rasterBefore_trans {a b c : Int × Int} (h : rasterBefore a b = true) (h' : rasterBefore b c = true) :
    rasterBefore a c = true := by
  rw [rasterBefore_iff] at *; omega

/-- Of two places not before one another, both are the same. -/
theorem rasterBefore_total {a b : Int × Int} (h : rasterBefore a b ≠ true) (hne : a ≠ b) : rasterBefore b a = true := by
  rw [ne_eq, rasterBefore_iff] at h
  rw [rasterBefore_iff]
  have : ¬(a.1 = b.1 ∧ a.2 = b.2) := fun ⟨h1, h2⟩ => hne (Prod.ext h1 h2)
  omega

/-- The image's canonical form, one pixel at a time. -/
theorem Image.wf_cons (e : Pixel) (m : List Pixel) :
    Image.wf (e :: m) = true ↔ (∀ d ∈ m.head?, rasterBefore e.1 d.1 = true) ∧ Image.wf m = true := by
  obtain ⟨q, c⟩ := e
  cases m with
  | nil => simp [Image.wf]
  | cons d m => obtain ⟨q', d⟩ := d; simp [Image.wf]

/-- The first place after a pixel write. -/
theorem imageSet_head (m : List Pixel) (lo xy : Int × Int) (c : Half) (hlo : rasterBefore lo xy = true)
    (h : ∀ d ∈ m.head?, rasterBefore lo d.1 = true) : ∀ d ∈ (imageSet m xy c).head?, rasterBefore lo d.1 = true := by
  cases m with
  | nil => simpa [imageSet] using hlo
  | cons e m =>
    obtain ⟨q, d⟩ := e
    simp only [imageSet]
    split
    · simpa using hlo
    · split
      · simpa using hlo
      · simpa using h

/-- A pixel write keeps the canonical form. -/
theorem imageSet_wf (m : List Pixel) (xy : Int × Int) (c : Half) (hm : Image.wf m = true) :
    Image.wf (imageSet m xy c) = true := by
  induction m with
  | nil => rfl
  | cons e m ih =>
    obtain ⟨q, d⟩ := e
    obtain ⟨hlt, hwf⟩ := (Image.wf_cons _ _).1 hm
    simp only [imageSet]
    split
    · rename_i hb
      exact (Image.wf_cons _ _).2 ⟨by simpa using hb, hm⟩
    · split
      · rename_i heq
        subst heq
        exact (Image.wf_cons _ _).2 ⟨hlt, hwf⟩
      · rename_i hb hne
        exact (Image.wf_cons _ _).2 ⟨imageSet_head m q xy c (rasterBefore_total hb hne) hlt, ih hwf⟩

/-- A place that was written reads its color, every other place as before. No canonical form is needed to read it. -/
theorem imageGet_imageSet (m : List Pixel) (xy : Int × Int) (c : Half) (p : Int × Int) :
    imageGet (imageSet m xy c) p = if p = xy then some c else imageGet m p := by
  induction m with
  | nil =>
    have hs : (xy = p) = (p = xy) := propext eq_comm
    by_cases h : p = xy <;> simp [imageSet, imageGet, h, hs]
  | cons e m ih =>
    obtain ⟨q, d⟩ := e
    simp only [imageSet]
    split
    · by_cases h : p = xy
      · simp [imageGet, h]
      · have : xy ≠ p := fun h' => h h'.symm
        simp [imageGet, h, this]
    · split
      · rename_i heq
        subst heq
        by_cases h : p = xy
        · simp [imageGet, h]
        · have : xy ≠ p := fun h' => h h'.symm
          simp [imageGet, h, this]
      · rename_i hne
        by_cases h : q = p
        · have : p ≠ xy := fun h' => hne (h'.symm.trans h.symm)
          simp [imageGet, h, this]
        · simp [imageGet, h, ih]

/-- Every pixel after a write is one the image had or the written one. -/
theorem mem_imageSet {m : List Pixel} {xy : Int × Int} {c : Half} {e : Pixel} (h : e ∈ imageSet m xy c) :
    e ∈ m ∨ e = (xy, c) := by
  induction m with
  | nil => simpa [imageSet] using h
  | cons d m ih =>
    obtain ⟨q, d⟩ := d
    simp only [imageSet] at h
    split at h
    · simp at h; rcases h with h | h | h <;> simp [h]
    · split at h
      · simp at h; rcases h with h | h <;> simp [h]
      · simp at h
        rcases h with h | h
        · simp [h]
        · rcases ih h with h | h <;> simp [h]

end Sys2Proof.Machine
end

