-- ==== Sys2Proof/Laws/Ops.lean ====
section
/-! SUPPORT. One lemma per shared operation that says what it can do: acceptance and dispatch (60_exceptions.md R249), a pause,
delivery of tokens (20_memory.md R57, R58), the one induction over a command's effects, and the cases of a step. -/

namespace Sys2Proof.Machine

/-- The state after a command's end, or a verdict's, on an idle state is that state but for what the command did. -/
theorem endCommand_idle {s : State} (h : s.idle) : endCommand { s with busy := true } = s := by
  obtain ⟨-, hb, hw⟩ := h
  show { s with busy := false, work := none } = s
  rw [← hb, ← hw]

/-- What acceptance answers: nothing after a verdict, nothing while busy, otherwise the frame's run (R246, R249, R274). -/
theorem accept_cases {f : PortFrame} {own : State → List Effect} {s t : State} (h : accept f own s = .next t) :
    s.undef = none ∧ s.busy = false ∧ t = runEffects f (dispatchEffects (own s) s) { s with busy := true } := by
  unfold accept at h
  split at h
  · cases h
  · split at h
    · cases h
    · cases h; simp_all

/-- Acceptance of a frame the block can take. -/
theorem accept_idle {f : PortFrame} {own : State → List Effect} {s : State} (h : s.idle) :
    accept f own s = .next (runEffects f (dispatchEffects (own s) s) { s with busy := true }) := by
  obtain ⟨hu, hb, -⟩ := h
  simp [accept, hu, hb]

/-- Which effects dispatch gives a frame: the first of the steps of R249 that applies. -/
theorem dispatchEffects_cases (own : List Effect) (s : State) :
    (s.fault = true ∧ dispatchEffects own s = []) ∨
    (s.fault = false ∧ s.ready = false ∧ dispatchEffects own s = [.verdict .notReady]) ∨
    (s.fault = false ∧ s.ready = true ∧ dispatchEffects own s = own) := by
  cases hf : s.fault <;> cases hr : s.ready <;> simp [dispatchEffects, hf, hr]

/-- A state that takes frames runs a frame's own effects. -/
theorem dispatchEffects_accepting {own : List Effect} {s : State} (h : s.accepting) : dispatchEffects own s = own := by
  simp [dispatchEffects, h.2.1, h.2.2]

/-- Every arm of `exec` runs its command's effects after dispatch. -/
theorem exec_eq (i : Instr) (s : State) : exec i s = accept (.command i) (effectsOf i) s := by cases i <;> rfl

/-- What `exec` answers on a state that takes frames: the command's effects, run with BUSY = 1 (R249). -/
theorem exec_accepting {i : Instr} {s : State} (h : s.accepting) :
    exec i s = .next (runEffects (.command i) (effectsOf i s) { s with busy := true }) := by
  rw [exec_eq, accept_idle h.1, dispatchEffects_accepting h]

/-- Every effect of `emits` is a token. -/
theorem mem_emits {ts : List Token} {e : Effect} (h : e ∈ emits ts) : ∃ t ∈ ts, e = .emit t := by
  simp only [emits, List.mem_map] at h
  obtain ⟨t, ht, rfl⟩ := h
  exact ⟨t, ht, rfl⟩

/-- `emits` writes no register. -/
theorem write_not_mem_emits (w : RegWrite) (ts : List Token) : Effect.write w ∉ emits ts := by
  intro h
  obtain ⟨t, -, ht⟩ := mem_emits h
  cases ht

@[simp] theorem emits_nil : emits [] = [] := rfl

@[simp] theorem emits_cons (t : Token) (ts : List Token) : emits (t :: ts) = .emit t :: emits ts := rfl

theorem emits_append (ts us : List Token) : emits (ts ++ us) = emits ts ++ emits us := by simp [emits]

/-- A pause stops the run before any effect, and before the end (R281). -/
theorem runEffects_pause (f : PortFrame) (es : List Effect) (s : State) (h : nextDraw s = .pause) :
    runEffects f es s = suspend f es .host (dropDraw s) := by
  cases es with
  | nil => simp [runEffects, unlessPaused, h]
  | cons e es => cases e <;> simp [runEffects, unlessPaused, h]

theorem unlessPaused_eq {f : PortFrame} {es : List Effect} {k : State → State} {s : State} (h : nextDraw s ≠ .pause) :
    unlessPaused f es k s = k s := by
  unfold unlessPaused
  split
  · contradiction
  · rfl

theorem runEffects_nil {f : PortFrame} {s : State} (h : nextDraw s ≠ .pause) : runEffects f [] s = endCommand s :=
  unlessPaused_eq h

theorem runEffects_write {f : PortFrame} {w : RegWrite} {es : List Effect} {s : State} (h : nextDraw s ≠ .pause) :
    runEffects f (.write w :: es) s = runEffects f es (writeRegister w s) := unlessPaused_eq h

theorem runEffects_verdict {f : PortFrame} {r : Verdict} {es : List Effect} {s : State} (h : nextDraw s ≠ .pause) :
    runEffects f (.verdict r :: es) s = setUndef r s := unlessPaused_eq h

theorem runEffects_illegalCmd {f : PortFrame} {es : List Effect} {s : State} (h : nextDraw s ≠ .pause) :
    runEffects f (.illegalCmd :: es) s = raiseFault .illegalCmd s := unlessPaused_eq h

/-- What offering one token does, by what meets it (R57, R67-R70, R243, R259). -/
theorem runEffects_emit_cases (f : PortFrame) (t : Token) (es : List Effect) (s : State) :
    (nextDraw s = .answer .ok ∧ ∃ q, observe s.params t s.panel = .ok q ∧
      runEffects f (.emit t :: es) s = runEffects f es (showPanel q (record t .ok s))) ∨
    (nextDraw s = .answer .ok ∧ ∃ r, observe s.params t s.panel = .error r ∧
      runEffects f (.emit t :: es) s = setUndef r (record t .ok s)) ∨
    (nextDraw s = .answer .fail ∧
      runEffects f (.emit t :: es) s = raiseFault .transport (losePanel (record t .fail s))) ∨
    (nextDraw s = .answer .never ∧
      runEffects f (.emit t :: es) s = suspend f (.emit t :: es) .transport (record t .never s)) ∨
    (nextDraw s = .pause ∧ runEffects f (.emit t :: es) s = suspend f (.emit t :: es) .host (dropDraw s)) := by
  rcases hd : nextDraw s with a | _
  · cases a with
    | ok =>
      rcases ho : observe s.params t s.panel with r | q
      · exact .inr (.inl ⟨rfl, r, rfl, by simp [runEffects, hd, ho]⟩)
      · exact .inl ⟨rfl, q, rfl, by simp [runEffects, hd, ho]⟩
    | fail => exact .inr (.inr (.inl ⟨rfl, by simp [runEffects, hd]⟩))
    | never => exact .inr (.inr (.inr (.inl ⟨rfl, by simp [runEffects, hd]⟩)))
  · exact .inr (.inr (.inr (.inr ⟨rfl, by simp [runEffects, hd]⟩)))

/-- THE INDUCTION over a frame's effects: `P` holds while they run, `Q` where they end or wait; what is left to do there is
an end part of them. -/
theorem runEffects_induction {P Q : State → Prop} (f : PortFrame) (es : List Effect)
    (hwrite : ∀ w s, Effect.write w ∈ es → P s → P (writeRegister w s))
    (hok : ∀ t q s, Effect.emit t ∈ es → observe s.params t s.panel = .ok q → P s → P (showPanel q (record t .ok s)))
    (hend : ∀ s, P s → Q (endCommand s))
    (hverdict : ∀ r s, P s → Q (setUndef r s))
    (hillegal : ∀ s, Effect.illegalCmd ∈ es → P s → Q (raiseFault .illegalCmd s))
    (hobs : ∀ t r s, P s → Q (setUndef r (record t .ok s)))
    (hfail : ∀ t s, P s → Q (raiseFault .transport (losePanel (record t .fail s))))
    (hnever : ∀ es' t s, es' <:+ es → P s → Q (suspend f es' .transport (record t .never s)))
    (hpause : ∀ es' s, es' <:+ es → P s → Q (suspend f es' .host (dropDraw s)))
    (s : State) (h : P s) : Q (runEffects f es s) := by
  induction es generalizing s with
  | nil =>
    by_cases hp : nextDraw s = .pause
    · rw [runEffects_pause f [] s hp]; exact hpause [] s List.suffix_rfl h
    · rw [runEffects_nil hp]; exact hend s h
  | cons e es ih =>
    by_cases hp : nextDraw s = .pause
    · rw [runEffects_pause f (e :: es) s hp]; exact hpause _ s List.suffix_rfl h
    · have tail : ∀ {es'}, es' <:+ es → es' <:+ e :: es := fun hs => hs.trans (List.suffix_cons e es)
      have ih := ih (fun w s hw => hwrite w s (.tail _ hw)) (fun t q s ht => hok t q s (.tail _ ht))
        (fun s hm => hillegal s (.tail _ hm)) (fun es' t s hs => hnever es' t s (tail hs))
        (fun es' s hs => hpause es' s (tail hs))
      cases e with
      | write w => rw [runEffects_write hp]; exact ih _ (hwrite w s (.head _) h)
      | verdict r => rw [runEffects_verdict hp]; exact hverdict r s h
      | illegalCmd => rw [runEffects_illegalCmd hp]; exact hillegal s (.head _) h
      | emit t =>
        rcases runEffects_emit_cases f t es s with ⟨-, q, hq, he⟩ | ⟨-, r, -, he⟩ | ⟨-, he⟩ | ⟨-, he⟩ | ⟨-, he⟩ <;> rw [he]
        · exact ih _ (hok t q s (.head _) hq h)
        · exact hobs t r s h
        · exact hfail t s h
        · exact hnever _ t s List.suffix_rfl h
        · exact hpause _ s List.suffix_rfl h

/-- A state's next draw under `quiet`, and what is left after it. -/
theorem quiet_succ {s : State} {n : Nat} (h : s.quiet (n + 1)) :
    nextDraw s = .answer .ok ∧ ∀ t : State, t.draws = s.draws.tail → t.quiet n := by
  obtain ⟨hok, hp⟩ := h
  cases hd : s.draws with
  | nil => exact ⟨by simp [nextDraw, hd], fun t ht => by simp [State.quiet, ht]⟩
  | cons d ds =>
    simp only [hd, List.take_succ_cons, List.all_cons, Bool.and_eq_true, beq_iff_eq, List.getElem?_cons_succ] at hok hp
    exact ⟨by simpa [nextDraw, hd] using hok.1, fun t ht => ⟨by rw [ht]; exact hok.2, by rw [ht]; exact hp⟩⟩

/-- No move of the host lands at a quiet state. -/
theorem quiet_draw {s : State} {n : Nat} (h : s.quiet n) : nextDraw s ≠ .pause := by
  cases n with
  | zero =>
    have hp := h.2
    cases hd : s.draws with
    | nil => simp [nextDraw, hd]
    | cons d ds => simpa [nextDraw, hd] using hp
  | succ n => rw [(quiet_succ h).1]; simp

/-- A state quiet for some tokens is quiet for fewer. -/
theorem quiet_le {s : State} {m n : Nat} (h : s.quiet n) (hm : m ≤ n) : s.quiet m := by
  obtain ⟨hok, hp⟩ := h
  rw [List.all_eq_true] at hok
  refine ⟨List.all_eq_true.2 fun d hd => hok d (List.take_subset_take_left _ hm hd), ?_⟩
  rcases Nat.eq_or_lt_of_le hm with rfl | hlt
  · exact hp
  · intro hm'
    have hmem : Draw.pause ∈ s.draws.take n := by
      rw [List.mem_take_iff_getElem]
      obtain ⟨hl, he⟩ := List.getElem?_eq_some_iff.1 hm'
      exact ⟨m, by omega, he⟩
    simpa using hok _ hmem

/-- DELIVERY: under a transport that accepts, and with no verdict of the observer, tokens are delivered in order and the
command goes on (R57, R58). -/
theorem runEffects_delivers (f : PortFrame) (ts : List Token) (es : List Effect) (q : Panel) (s : State)
    (hq : s.quiet ts.length) (ho : observeAll s.params ts s.panel = .ok q) :
    runEffects f (emits ts ++ es) s = runEffects f es (s.delivered ts q) ∧ (s.delivered ts q).quiet 0 := by
  induction ts generalizing s with
  | nil =>
    simp only [observeAll, Except.ok.injEq] at ho
    subst ho
    exact ⟨by simp [State.delivered], by simpa [State.delivered] using hq⟩
  | cons t ts ih =>
    obtain ⟨hd, hrest⟩ := quiet_succ hq
    rw [observeAll] at ho
    split at ho
    · rename_i q1 h1
      obtain ⟨hrun, hquiet⟩ := ih (showPanel q1 (record t .ok s)) (hrest _ rfl) (by simpa using ho)
      have hstate : (showPanel q1 (record t .ok s)).delivered ts q = s.delivered (t :: ts) q := by
        simp [State.delivered, showPanel, record, List.drop_tail]
      rw [hstate] at hrun hquiet
      refine ⟨?_, hquiet⟩
      rw [emits_cons, List.cons_append, runEffects]
      simp only [hd, h1]
      exact hrun
    · cases ho

/-- A command that only offers tokens, where the transport accepts them and the observer has no verdict. -/
theorem runEffects_emits (f : PortFrame) (ts : List Token) (q : Panel) (s : State)
    (hq : s.quiet ts.length) (ho : observeAll s.params ts s.panel = .ok q) :
    runEffects f (emits ts) s = endCommand (s.delivered ts q) := by
  obtain ⟨hrun, hquiet⟩ := runEffects_delivers f ts [] q s hq ho
  rw [List.append_nil] at hrun
  rw [hrun, runEffects_nil (quiet_draw hquiet)]

/-- The observer over two runs of tokens. -/
theorem observeAll_append (p : Params) (ts us : List Token) (q : Panel) :
    observeAll p (ts ++ us) q = match observeAll p ts q with
      | .ok q' => observeAll p us q'
      | .error r => .error r := by
  induction ts generalizing q with
  | nil => rfl
  | cons t ts ih =>
    simp only [List.cons_append, observeAll]
    split <;> simp [ih]

/-- A LOST observer checks no token (R70). -/
theorem observeAll_lost (p : Params) (ts : List Token) (q : Panel) (h : q.lost = true) : observeAll p ts q = .ok q := by
  induction ts with
  | nil => rfl
  | cons t ts ih => simp [observeAll, observe, h, ih]

/-- The characters' effects depend on the parameters, the memory, the font and the style, and on nothing else of the state. -/
theorem putCharsEffects_congr {s t : State} (hp : t.params = s.params) (hm : t.mem = s.mem) (hf : t.font = s.font)
    (hs : t.style = s.style) (x y : Half) (chars : List Byte) : putCharsEffects t x y chars = putCharsEffects s x y chars := by
  induction chars generalizing x y with
  | nil => rfl
  | cons ch rest ih =>
    simp only [State.font, State.style, Prod.mk.injEq] at hf hs
    have hone : putCharEffects t x y ch = putCharEffects s x y ch := by
      cases s; cases t; simp only at hp hm hf hs; obtain ⟨rfl, rfl, rfl⟩ := hf; obtain ⟨rfl, rfl, rfl⟩ := hs; subst hp hm; rfl
    have hcursor : cursorAfter t x y ch = cursorAfter s x y ch := by
      cases s; cases t; simp only at hp hm hf hs; obtain ⟨rfl, rfl, rfl⟩ := hf; obtain ⟨rfl, rfl, rfl⟩ := hs; subst hp hm; rfl
    rw [putCharsEffects, putCharsEffects, hone, hcursor, ih]

/-- A command's effects depend on the parameters, the memory and the registers, and on nothing else of the state. -/
theorem effectsOf_congr (i : Instr) {s t : State} (hp : t.params = s.params) (hm : t.mem = s.mem) (hc : t.cursor = s.cursor)
    (hs : t.style = s.style) (hf : t.font = s.font) (hj : t.cjk = s.cjk) : effectsOf i t = effectsOf i s := by
  have chars := fun cs => putCharsEffects_congr hp hm hf hs s.curX s.curY cs
  simp only [State.font, State.style, State.cursor, State.cjk, Prod.mk.injEq] at hc hs hf hj
  cases i with
  | putString addr len =>
    have hfont : fontValid t = fontValid s := by simp only [fontValid, hf]
    have hread : memRead t addr.toNat (stringCount t len) = memRead s addr.toNat (stringCount s len) := by
      cases s; cases t; simp only at hp hm; subst hp hm; rfl
    simp only [effectsOf, putStringEffects, hfont, hread, hc, chars]
  | _ =>
    cases s; cases t; simp only at hp hm hc hs hf hj
    obtain ⟨rfl, rfl⟩ := hc; obtain ⟨rfl, rfl, rfl⟩ := hs; obtain ⟨rfl, rfl, rfl⟩ := hf; obtain ⟨rfl, rfl⟩ := hj
    subst hp hm; rfl

/-- One character's effects: tokens, cursor writes, a verdict. -/
theorem putCharEffects_own {f : PortFrame} (hf : f.asks writesCursor = true) (s : State) (x y : Half) (ch : Byte) :
    ∀ e ∈ putCharEffects s x y ch, f.mayDo e = true := by
  have hc : f.asks (fun _ => true) = true := by cases f <;> simp_all [PortFrame.asks]
  intro e he
  unfold putCharEffects at he
  split at he
  · simp only [lineAdvance, List.mem_cons, List.not_mem_nil, or_false] at he
    rcases he with rfl | rfl <;> exact hf
  · split at he
    · split at he
      · simp only [List.mem_cons, List.not_mem_nil, or_false] at he
        subst he
        rfl
      · rw [List.mem_append] at he
        rcases he with he | he
        · split at he
          · simp only [lineAdvance, List.mem_cons, List.not_mem_nil, or_false] at he
            rcases he with rfl | rfl <;> exact hf
          · simp at he
        · simp only [drawGlyph, List.mem_append, List.mem_cons, List.not_mem_nil, or_false] at he
          rcases he with (he | he) | rfl
          · obtain ⟨t, -, rfl⟩ := mem_emits he; exact hc
          · obtain ⟨t, -, rfl⟩ := mem_emits he; exact hc
          · exact hf
    · simp at he

/-- A string's effects: those of its characters. -/
theorem putCharsEffects_own {f : PortFrame} (hf : f.asks writesCursor = true) (s : State) (x y : Half) (chars : List Byte) :
    ∀ e ∈ putCharsEffects s x y chars, f.mayDo e = true := by
  induction chars generalizing x y with
  | nil => simp [putCharsEffects]
  | cons ch rest ih =>
    intro e he
    rw [putCharsEffects, List.mem_append] at he
    rcases he with he | he
    · exact putCharEffects_own hf s x y ch e he
    · exact ih _ _ e he

/-- A command's effects are its own: the writes of its row of R37, and never an illegal command. -/
theorem effectsOf_own (i : Instr) (s : State) : ∀ e ∈ effectsOf i s, (PortFrame.command i).mayDo e = true := by
  have tokens : ∀ ts, ∀ e ∈ emits ts, (PortFrame.command i).mayDo e = true := by
    intro ts e he
    obtain ⟨t, -, rfl⟩ := mem_emits he
    rfl
  have verdict : ∀ r, ∀ e ∈ [Effect.verdict r], (PortFrame.command i).mayDo e = true := by simp [PortFrame.mayDo]
  cases i with
  | nop => simp [effectsOf, nopEffects]
  | setWindow => exact tokens _
  | writePixel => exact tokens _
  | pack565 => simp [effectsOf, pack565Effects, PortFrame.mayDo, PortFrame.mayWrite, PortFrame.asks, writesPack]
  | blit =>
    simp only [effectsOf, blitEffects]
    split
    · exact verdict _
    · split
      · exact verdict _
      · exact tokens _
  | drawPixel => exact tokens _
  | drawLine => exact tokens _
  | drawCircle => exact tokens _
  | drawTriangle => exact tokens _
  | drawRect =>
    simp only [effectsOf, drawRectEffects]
    split
    · exact verdict _
    · exact tokens _
  | setFont => simp [effectsOf, setFontEffects, PortFrame.mayDo, PortFrame.mayWrite, PortFrame.asks, writesFont]
  | setCursorPos =>
    simp [effectsOf, setCursorPosEffects, PortFrame.mayDo, PortFrame.mayWrite, PortFrame.asks, writesCursor]
  | setCursorStyle =>
    simp [effectsOf, setCursorStyleEffects, PortFrame.mayDo, PortFrame.mayWrite, PortFrame.asks, writesStyle]
  | putChar ch =>
    simp only [effectsOf, putCharCommandEffects]
    split
    · exact putCharEffects_own rfl s _ _ ch
    · exact verdict _
  | putString =>
    simp only [effectsOf, putStringEffects]
    split
    · split
      · exact verdict _
      · exact putCharsEffects_own rfl s _ _ _
    · exact verdict _
  | setCjkTable =>
    simp [effectsOf, setCjkTableEffects, PortFrame.mayDo, PortFrame.mayWrite, PortFrame.asks, writesCjk]
  | drawCjk =>
    simp only [effectsOf, drawCjkEffects]
    split
    · exact verdict _
    · split
      · exact verdict _
      · exact tokens _

/-- No command's effect is an illegal command (R244). -/
theorem illegalCmd_not_mem_effectsOf (i : Instr) (s : State) : Effect.illegalCmd ∉ effectsOf i s :=
  fun h => Bool.false_ne_true (effectsOf_own i s _ h)

/-- The effects dispatch gives a frame are its own. -/
theorem dispatchEffects_own {f : PortFrame} {own : List Effect} (s : State) (h : ∀ e ∈ own, f.mayDo e = true) :
    ∀ e ∈ dispatchEffects own s, f.mayDo e = true := by
  rcases dispatchEffects_cases own s with ⟨-, h'⟩ | ⟨-, -, h'⟩ | ⟨-, -, h'⟩ <;> rw [h']
  · simp
  · simp [PortFrame.mayDo]
  · exact h

/-- A register write commutes with BUSY. -/
theorem applyWrites_busy (es : List Effect) (s : State) (b : Bool) :
    applyWrites es { s with busy := b } = { applyWrites es s with busy := b } := by
  induction es generalizing s with
  | nil => rfl
  | cons e es ih =>
    cases e with
    | write w => simp only [applyWrites]; rw [← ih]; cases w <;> rfl
    | emit _ => exact ih s
    | verdict _ => exact ih s
    | illegalCmd => exact ih s

/-- A register write commutes with the delivery of a token. -/
theorem applyWrites_record (es : List Effect) (q : Panel) (t : Token) (s : State) :
    applyWrites es (showPanel q (record t .ok s)) = showPanel q (record t .ok (applyWrites es s)) := by
  induction es generalizing s with
  | nil => rfl
  | cons e es ih =>
    cases e with
    | write w => simp only [applyWrites]; rw [← ih]; cases w <;> rfl
    | emit _ => exact ih s
    | verdict _ => exact ih s
    | illegalCmd => exact ih s

/-- What register writes leave alone. -/
theorem applyWrites_keep (es : List Effect) (s : State) :
    (applyWrites es s).busy = s.busy ∧ (applyWrites es s).work = s.work ∧ (applyWrites es s).fault = s.fault ∧
    (applyWrites es s).trace = s.trace ∧ (applyWrites es s).draws = s.draws ∧
    (applyWrites es s).params = s.params ∧ (applyWrites es s).panel = s.panel ∧
    (applyWrites es s).undef = s.undef ∧ (applyWrites es s).host = s.host := by
  induction es generalizing s with
  | nil => simp [applyWrites]
  | cons e es ih =>
    cases e with
    | write w => have := ih (writeRegister w s); cases w <;> exact this
    | emit _ => exact ih s
    | verdict _ => exact ih s
    | illegalCmd => exact ih s

/-- A run does not depend on the working state it was taken from. -/
theorem runEffects_work (f : PortFrame) (es : List Effect) (s : State) (w : Option Work) :
    runEffects f es { s with work := w } = runEffects f es s := by
  induction es generalizing s with
  | nil =>
    by_cases hp : nextDraw s = .pause
    · rw [runEffects_pause f _ s hp, runEffects_pause f _ { s with work := w } hp]; rfl
    · rw [runEffects_nil hp, runEffects_nil (s := { s with work := w }) hp]; rfl
  | cons e es ih =>
    by_cases hp : nextDraw s = .pause
    · rw [runEffects_pause f _ s hp, runEffects_pause f _ { s with work := w } hp]; rfl
    · cases e with
      | verdict r => rw [runEffects_verdict hp, runEffects_verdict (s := { s with work := w }) hp]; rfl
      | illegalCmd => rw [runEffects_illegalCmd hp, runEffects_illegalCmd (s := { s with work := w }) hp]; rfl
      | write x =>
        have hcomm : writeRegister x { s with work := w } = { writeRegister x s with work := w } := by cases x <;> rfl
        rw [runEffects_write hp, runEffects_write (s := { s with work := w }) hp, hcomm, ih]
      | emit t =>
        rw [runEffects, runEffects]
        simp only [nextDraw]
        split
        · split
          · exact ih (showPanel _ (record t .ok s))
          · rfl
        · rfl
        · rfl
        · rfl

/-- DELIVERY of any effects without a verdict or an illegal command: the tokens are offered in order, the writes are made in
their places, and the frame's execution goes on, with no move of the host there (00_scope.md R11, 20_memory.md R57, R58). -/
theorem runEffects_prefix (f : PortFrame) (pre post : List Effect) (s : State) (q : Panel)
    (hv : ∀ r, Effect.verdict r ∉ pre) (hi : Effect.illegalCmd ∉ pre) (hq : s.quiet (effectTokens pre).length)
    (ho : observeAll s.params (effectTokens pre) s.panel = .ok q) :
    runEffects f (pre ++ post) s = runEffects f post ((applyWrites pre s).delivered (effectTokens pre) q) ∧
    ((applyWrites pre s).delivered (effectTokens pre) q).quiet 0 := by
  induction pre generalizing s with
  | nil =>
    simp only [effectTokens, List.filterMap_nil, observeAll, Except.ok.injEq] at ho
    subst ho
    exact ⟨by simp [effectTokens, State.delivered, applyWrites],
      by simpa [effectTokens, State.delivered, applyWrites] using hq⟩
  | cons e pre ih =>
    have hv' : ∀ r, Effect.verdict r ∉ pre := fun r h => hv r (.tail _ h)
    have hi' : Effect.illegalCmd ∉ pre := fun h => hi (.tail _ h)
    cases e with
    | verdict r => exact absurd (.head _) (hv r)
    | illegalCmd => exact absurd (.head _) hi
    | write w =>
      have hcons : effectTokens (.write w :: pre) = effectTokens pre := rfl
      rw [hcons] at hq ho ⊢
      rw [List.cons_append, runEffects_write (quiet_draw hq), applyWrites]
      apply ih _ hv' hi' <;> cases w <;> assumption
    | emit t =>
      have hcons : effectTokens (.emit t :: pre) = t :: effectTokens pre := rfl
      rw [hcons] at hq ho ⊢
      obtain ⟨hd, hrest⟩ := quiet_succ hq
      rw [observeAll] at ho
      split at ho
      · rename_i q1 h1
        obtain ⟨hrun, hquiet⟩ := ih (showPanel q1 (record t .ok s)) hv' hi' (hrest _ rfl) (by simpa using ho)
        have hstate : (applyWrites pre (showPanel q1 (record t .ok s))).delivered (effectTokens pre) q =
            (applyWrites (.emit t :: pre) s).delivered (t :: effectTokens pre) q := by
          rw [applyWrites_record]
          simp [State.delivered, showPanel, record, List.drop_tail, applyWrites]
        rw [hstate] at hrun hquiet
        refine ⟨?_, hquiet⟩
        rw [List.cons_append, runEffects]
        simp only [hd, h1]
        exact hrun
      · cases ho

/-- What running a command never touches: the parameters, source memory, READY, the host's side. -/
theorem runEffects_environment (f : PortFrame) (es : List Effect) (s : State) :
    (runEffects f es s).params = s.params ∧ (runEffects f es s).mem = s.mem ∧ (runEffects f es s).ready = s.ready ∧
    (runEffects f es s).host = s.host ∧ (runEffects f es s).reads = s.reads ∧
    (runEffects f es s).freeReads = s.freeReads := by
  refine runEffects_induction
    (P := fun t => t.params = s.params ∧ t.mem = s.mem ∧ t.ready = s.ready ∧ t.host = s.host ∧ t.reads = s.reads ∧
      t.freeReads = s.freeReads)
    (Q := fun t => t.params = s.params ∧ t.mem = s.mem ∧ t.ready = s.ready ∧ t.host = s.host ∧ t.reads = s.reads ∧
      t.freeReads = s.freeReads) f es ?_ ?_ ?_ ?_ ?_ ?_ ?_ ?_ ?_ s ⟨rfl, rfl, rfl, rfl, rfl, rfl⟩ <;> intros <;> simp_all

/-- A component of the registers that none of the effects writes is left alone. -/
theorem runEffects_register {α : Type} (g : State → α) (f : PortFrame) (es : List Effect)
    (hw : ∀ w s, Effect.write w ∈ es → g (writeRegister w s) = g s)
    (hshow : ∀ q s, g (showPanel q s) = g s) (hrec : ∀ t a s, g (record t a s) = g s)
    (hend : ∀ s, g (endCommand s) = g s) (hund : ∀ r s, g (setUndef r s) = g s)
    (hfault : ∀ c s, g (raiseFault c s) = g s) (hlose : ∀ s, g (losePanel s) = g s)
    (hsus : ∀ es' w s, g (suspend f es' w s) = g s) (hdrop : ∀ s, g (dropDraw s) = g s) (s : State) :
    g (runEffects f es s) = g s := by
  refine runEffects_induction (P := fun t => g t = g s) (Q := fun t => g t = g s) f es ?_ ?_ ?_ ?_ ?_ ?_ ?_ ?_ ?_ s rfl <;>
    intros <;> simp_all

/-- Where no move of the host lands, the execution that waited goes on (R281). -/
theorem step_waiting {s : State} {f : PortFrame} {es : List Effect} (hu : s.undef = none) (hb : s.busy = true)
    (hw : s.work = some ⟨f, es, .host⟩) (hh : s.host = []) : step s = .next (runEffects f es s) := by
  simp [step, machineStep, hu, hb, hw, stepPaused, hh, resume]

/-- What a step can do (60_exceptions.md R246, R257, R259; 70 R274, R281). -/
theorem step_cases {s t : State} (h : step s = .next t) :
    s.undef = none ∧
    ((s.busy = false ∧ s.host = [] ∧ t = s) ∨
     (s.busy = false ∧ ∃ bytes moves, s.host = .send bytes :: moves ∧ takeFrame exec bytes moves s = .next t) ∨
     (s.busy = false ∧ ∃ a v moves, s.host = .store a v :: moves ∧ a.toNat < s.params.memSize ∧
       t = { s with host := moves, mem := writeByte s.mem a.toNat v }) ∨
     ((∃ n moves, s.host = .read n :: moves ∧
        (t = portRead n (withHost moves s) ∨ t = resume (portRead n (withHost moves s))))) ∨
     ((∃ moves, s.host = .raiseReady :: moves ∧
        (t = raiseReady (withHost moves s) ∨ t = resume (raiseReady (withHost moves s))))) ∨
     ((∃ moves, s.host = .reset :: moves ∧ t = resetBlock (withHost moves s))) ∨
     (s.busy = true ∧ t = resume s)) := by
  unfold step machineStep at h
  split at h
  · cases h
  · rename_i hu
    refine ⟨hu, ?_⟩
    split at h
    · rename_i hb
      have paused : ∀ {t}, stepPaused s = t →
          ((∃ n moves, s.host = .read n :: moves ∧
            (t = portRead n (withHost moves s) ∨ t = resume (portRead n (withHost moves s))))) ∨
          ((∃ moves, s.host = .raiseReady :: moves ∧
            (t = raiseReady (withHost moves s) ∨ t = resume (raiseReady (withHost moves s))))) ∨
          ((∃ moves, s.host = .reset :: moves ∧ t = resetBlock (withHost moves s))) ∨
          (s.busy = true ∧ t = resume s) := by
        intro t ht
        unfold stepPaused at ht
        split at ht
        · rename_i n moves hh; exact .inl ⟨n, moves, hh, .inr ht.symm⟩
        · rename_i moves hh; exact .inr (.inl ⟨moves, hh, .inr ht.symm⟩)
        · rename_i moves hh; exact .inr (.inr (.inl ⟨moves, hh, ht.symm⟩))
        · exact .inr (.inr (.inr ⟨hb, ht.symm⟩))
      split at h
      · unfold stepHung at h
        split at h
        · rename_i n moves hh; cases h; exact .inr (.inr (.inr (.inl ⟨n, moves, hh, .inl rfl⟩)))
        · rename_i moves hh; cases h; exact .inr (.inr (.inr (.inr (.inl ⟨moves, hh, .inl rfl⟩))))
        · rename_i moves hh; cases h; exact .inr (.inr (.inr (.inr (.inr (.inl ⟨moves, hh, rfl⟩)))))
        · cases h
      · exact .inr (.inr (.inr (paused (Host.Outcome.next.inj h))))
      · exact .inr (.inr (.inr (paused (Host.Outcome.next.inj h))))
    · rename_i hb
      have hb : s.busy = false := by simpa using hb
      unfold stepIdle at h
      split at h
      · rename_i hh; cases h; exact .inl ⟨hb, hh, rfl⟩
      · rename_i bytes moves hh; exact .inr (.inl ⟨hb, bytes, moves, hh, h⟩)
      · rename_i n moves hh; cases h; exact .inr (.inr (.inr (.inl ⟨n, moves, hh, .inl rfl⟩)))
      · rename_i a v moves hh
        unfold placeByte at h
        split at h
        · rename_i ha; cases h; exact .inr (.inr (.inl ⟨hb, a, v, moves, hh, ha, rfl⟩))
        · cases h
      · rename_i moves hh; cases h; exact .inr (.inr (.inr (.inr (.inl ⟨moves, hh, .inl rfl⟩))))
      · rename_i moves hh; cases h; exact .inr (.inr (.inr (.inr (.inr (.inl ⟨moves, hh, rfl⟩)))))

end Sys2Proof.Machine
end

