-- ==== Sys2Proof/Laws/PerInstr.lean ====
section
/-! SUPPORT. The per-instruction family EncodedLength: every command's words begin with an opcode of the opcode map and have
the length its format gives (30_encoding.md R83, R85). -/

/-- The command's words are its opcode and as many bytes as the opcode's format says. -/
def Sys2Proof.Laws.EncodedLength.Statement (i : Sys2Proof.Instr) : Prop :=
  ∃ opcode args, Sys2Proof.encode i = opcode :: args ∧
    Sys2Proof.frameLength opcode = some (Sys2Proof.encode i).length

theorem Sys2Proof.Laws.EncodedLength.nop : Sys2Proof.Laws.EncodedLength.Statement .nop :=
  ⟨_, _, rfl, rfl⟩

theorem Sys2Proof.Laws.EncodedLength.setWindow (xs ys xe ye : Sys2Proof.Half) : Sys2Proof.Laws.EncodedLength.Statement (.setWindow xs ys xe ye) :=
  ⟨_, _, rfl, rfl⟩

theorem Sys2Proof.Laws.EncodedLength.writePixel (color : Sys2Proof.Half) : Sys2Proof.Laws.EncodedLength.Statement (.writePixel color) :=
  ⟨_, _, rfl, rfl⟩

theorem Sys2Proof.Laws.EncodedLength.pack565 (r g b : Sys2Proof.Byte) : Sys2Proof.Laws.EncodedLength.Statement (.pack565 r g b) :=
  ⟨_, _, rfl, rfl⟩

theorem Sys2Proof.Laws.EncodedLength.blit (x y w h : Sys2Proof.Half) (addr : Sys2Proof.Word) : Sys2Proof.Laws.EncodedLength.Statement (.blit x y w h addr) :=
  ⟨_, _, rfl, rfl⟩

theorem Sys2Proof.Laws.EncodedLength.drawPixel (x y color : Sys2Proof.Half) : Sys2Proof.Laws.EncodedLength.Statement (.drawPixel x y color) :=
  ⟨_, _, rfl, rfl⟩

theorem Sys2Proof.Laws.EncodedLength.drawLine (x0 y0 x1 y1 color : Sys2Proof.Half) : Sys2Proof.Laws.EncodedLength.Statement (.drawLine x0 y0 x1 y1 color) :=
  ⟨_, _, rfl, rfl⟩

theorem Sys2Proof.Laws.EncodedLength.drawCircle (x0 y0 r color : Sys2Proof.Half) : Sys2Proof.Laws.EncodedLength.Statement (.drawCircle x0 y0 r color) :=
  ⟨_, _, rfl, rfl⟩

theorem Sys2Proof.Laws.EncodedLength.drawTriangle (x0 y0 x1 y1 x2 y2 color : Sys2Proof.Half) : Sys2Proof.Laws.EncodedLength.Statement (.drawTriangle x0 y0 x1 y1 x2 y2 color) :=
  ⟨_, _, rfl, rfl⟩

theorem Sys2Proof.Laws.EncodedLength.drawRect (x0 y0 w h color : Sys2Proof.Half) : Sys2Proof.Laws.EncodedLength.Statement (.drawRect x0 y0 w h color) :=
  ⟨_, _, rfl, rfl⟩

theorem Sys2Proof.Laws.EncodedLength.setFont (base : Sys2Proof.Word) (fw fh : Sys2Proof.Byte) : Sys2Proof.Laws.EncodedLength.Statement (.setFont base fw fh) :=
  ⟨_, _, rfl, rfl⟩

theorem Sys2Proof.Laws.EncodedLength.setCursorPos (x y : Sys2Proof.Half) : Sys2Proof.Laws.EncodedLength.Statement (.setCursorPos x y) :=
  ⟨_, _, rfl, rfl⟩

theorem Sys2Proof.Laws.EncodedLength.setCursorStyle (color cspace lspace : Sys2Proof.Half) : Sys2Proof.Laws.EncodedLength.Statement (.setCursorStyle color cspace lspace) :=
  ⟨_, _, rfl, rfl⟩

theorem Sys2Proof.Laws.EncodedLength.putChar (ch : Sys2Proof.Byte) : Sys2Proof.Laws.EncodedLength.Statement (.putChar ch) :=
  ⟨_, _, rfl, rfl⟩

theorem Sys2Proof.Laws.EncodedLength.putString (addr : Sys2Proof.Word) (len : Sys2Proof.Half) : Sys2Proof.Laws.EncodedLength.Statement (.putString addr len) :=
  ⟨_, _, rfl, rfl⟩

theorem Sys2Proof.Laws.EncodedLength.setCjkTable (base : Sys2Proof.Word) (count : Sys2Proof.Half) : Sys2Proof.Laws.EncodedLength.Statement (.setCjkTable base count) :=
  ⟨_, _, rfl, rfl⟩

theorem Sys2Proof.Laws.EncodedLength.drawCjk (x y index color : Sys2Proof.Half) : Sys2Proof.Laws.EncodedLength.Statement (.drawCjk x y index color) :=
  ⟨_, _, rfl, rfl⟩
end

