-- ==== Sys2Proof/Machine/Pseudo.lean ====
section
/-! DEFINITION. The host's side of the encodings: the textual form of a frame and the pseudo-commands (30_encoding.md R95,
R96). None of this exists in the hardware; the pseudo-commands are lists of frames the host sends. -/

namespace Sys2Proof.Machine

/-- Numbers in the textual form, in decimal (R95). -/
def asmArgs (args : List Nat) : String := String.intercalate ", " (args.map toString)

/-- A frame's textual form (R95): the mnemonic in lower case, then the arguments in R85's order. -/
def asmText : Instr → String
  | .nop => "nop"
  | .setWindow xs ys xe ye => "set_window " ++ asmArgs [xs.toNat, ys.toNat, xe.toNat, ye.toNat]
  | .writePixel c => "write_pixel " ++ asmArgs [c.toNat]
  | .pack565 r g b => "pack565 " ++ asmArgs [r.toNat, g.toNat, b.toNat]
  | .blit x y w h addr => "blit " ++ asmArgs [x.toNat, y.toNat, w.toNat, h.toNat, addr.toNat]
  | .drawPixel x y c => "draw_pixel " ++ asmArgs [x.toNat, y.toNat, c.toNat]
  | .drawLine x0 y0 x1 y1 c => "draw_line " ++ asmArgs [x0.toNat, y0.toNat, x1.toNat, y1.toNat, c.toNat]
  | .drawCircle x0 y0 r c => "draw_circle " ++ asmArgs [x0.toNat, y0.toNat, r.toNat, c.toNat]
  | .drawTriangle x0 y0 x1 y1 x2 y2 c =>
    "draw_triangle " ++ asmArgs [x0.toNat, y0.toNat, x1.toNat, y1.toNat, x2.toNat, y2.toNat, c.toNat]
  | .drawRect x0 y0 w h c => "draw_rect " ++ asmArgs [x0.toNat, y0.toNat, w.toNat, h.toNat, c.toNat]
  | .setFont base fw fh => "set_font " ++ asmArgs [base.toNat, fw.toNat, fh.toNat]
  | .setCursorPos x y => "set_cursor_pos " ++ asmArgs [x.toNat, y.toNat]
  | .setCursorStyle c cs ls => "set_cursor_style " ++ asmArgs [c.toNat, cs.toNat, ls.toNat]
  | .putChar ch => "put_char " ++ asmArgs [ch.toNat]
  | .putString addr len => "put_string " ++ asmArgs [addr.toNat, len.toNat]
  | .setCjkTable base count => "set_cjk_table " ++ asmArgs [base.toNat, count.toNat]
  | .drawCjk x y index c => "draw_cjk " ++ asmArgs [x.toNat, y.toNat, index.toNat, c.toNat]

/-- How many pixels `fill_window` writes (R96). DESIGN CHOICE (safe, log 18): where the bounds make R96's product negative
(one axis reversed), for which R96 gives no meaning, no pixel. -/
def fillCount (xs ys xe ye : Half) : Nat :=
  (((xe.toNat : Int) - xs.toNat + 1) * ((ye.toNat : Int) - ys.toNat + 1)).toNat

/-- `fill_window xs, ys, xe, ye, color` (R96). -/
def fillWindow (xs ys xe ye color : Half) : List Instr :=
  .setWindow xs ys xe ye :: List.replicate (fillCount xs ys xe ye) (.writePixel color)

/-- `puts "text"` (R96): one `put_char` per byte, not truncated. -/
def puts (text : List Byte) : List Instr := text.map .putChar

/-- `rgb r, g, b` (R96). -/
def rgb (r g b : Byte) : List Instr := [.pack565 r g b]

/-- The host's moves that send these commands, one frame each. -/
def sends (program : List Instr) : List HostMove := program.map fun i => .send (encode i)

/-- `.bytes addr: …` (R95), the loader's placing of bytes in source memory, as the host's moves. DESIGN CHOICE (unsafe,
log 18): a line that runs past address 0xFFFFFFFF, of which R95 says nothing, goes on at address 0; reads of the block do
not wrap (R52), and no step uses this helper. -/
def loadBytes (addr : Word) : List Byte → List HostMove
  | [] => []
  | b :: rest => .store addr b :: loadBytes (addr + 1) rest

end Sys2Proof.Machine
end

