-- ==== Sys2Proof/Tests/Slice0.lean ====
section
/-! SUPPORT. Tests. Expected values come from spec/95_test_vectors.md (named V-… or L1-… in each comment) or are worked by
hand from the rule named. The last part holds one witness theorem for each obligation that has hypotheses. -/

namespace Sys2Proof.Tests

open Sys2Proof.Machine

/-! ### Helpers -/

/-- A machine just launched with these parameters and this memory, READY = 1 and a transport that accepts. -/
def boot (p : Params) (mem : List Host.Cell) : State := State.launch p true mem [] []

/-- A panel of this size and this much memory; everything else as the vectors' section 0 has it. -/
def sized (columns lines : Half) (memSize : Nat) : Params :=
  { Config.launchParams with columnCount := columns, lineCount := lines, memSize := memSize }

/-- Bytes from an address on, as memory cells. -/
def cells (addr : Nat) : List Byte → List Host.Cell
  | [] => []
  | b :: rest => if b = 0 then cells (addr + 1) rest else (addr, b) :: cells (addr + 1) rest

def next? (o : Host.Outcome State Fault Refusal) : Option State :=
  match o with
  | .next s => some s
  | .fault _ => none
  | .refused _ => none

def stop? (o : Host.Outcome State Fault Refusal) : Option Fault :=
  match o with
  | .next _ => none
  | .fault f => some f
  | .refused _ => none

/-- The tokens a command offers. -/
def tokensOf (i : Instr) (s : State) : Option (List Token) := (next? (exec i s)).map fun t => t.trace.map (·.token)

/-- The verdict a command ends with, and how many tokens it offered. -/
def verdictOf (i : Instr) (s : State) : Option (Option Verdict × Nat) :=
  (next? (exec i s)).map fun t => (t.undef, t.trace.length)

/-- The panel's written pixels after a command. -/
def imageOf (i : Instr) (s : State) : Option (List Pixel) := (next? (exec i s)).map (·.panel.image)

/-- The cursor after a command. -/
def cursorOf (i : Instr) (s : State) : Option (Half × Half) := (next? (exec i s)).map (·.cursor)

def C (b : Byte) : Token := ⟨.cmd, b⟩

def D (bytes : List Byte) : List Token := bytes.map (⟨.data, ·⟩)

/-- The observer inside a window of a panel without offsets, after `count` pixels. -/
def inWindow (xs ys xe ye : Half) (px py count : Int) : Panel :=
  { Panel.initial with
    cs := some xs, ce := some xe, rs := some ys, re := some ye, mode := .stream, px := px, py := py, count := count }

/-! ### Well-formedness: a term each check refuses -/

theorem test_wellFormed_frame : Frame.wellFormed [0x21, 0, 3, 0, 4] = true := by decide
/-- R88: no opcode, no frame. -/
theorem test_illFormed_hasOpcode : Frame.hasOpcode [] = false ∧ Frame.wellFormed [] = false := by decide
/-- R86: 0x07 is reserved. -/
theorem test_illFormed_opcodeAssigned : Frame.opcodeAssigned [0x07] = false ∧ Frame.wellFormed [0x07] = false := by decide
/-- R83: format H2 is 5 bytes. -/
theorem test_illFormed_complete :
    Frame.complete [0x21, 0, 3, 0] = false ∧ Frame.wellFormed [0x21, 0, 3, 0] = false := by decide
theorem test_illFormed_noSurplus :
    Frame.noSurplus [0x21, 0, 3, 0, 4, 0] = false ∧ Frame.wellFormed [0x21, 0, 3, 0, 4, 0] = false := by decide
theorem test_wellFormed_params : Config.launchParams.ok = true := by decide
/-- R6: COLUMN_COUNT and LINE_COUNT are at least 1. -/
theorem test_illFormed_geometry :
    (sized 0 16 0x1000).geometryOk = false ∧ (sized 16 0 0x1000).geometryOk = false ∧ (sized 0 16 0x1000).ok = false := by
  decide
/-- R6: MEM_SIZE is 1 to 2^32. -/
theorem test_illFormed_memSize :
    (sized 16 16 0).memSizeOk = false ∧ (sized 16 16 (2 ^ 32 + 1)).memSizeOk = false ∧
    (sized 16 16 (2 ^ 32)).memSizeOk = true ∧ (sized 16 16 0).ok = false := by decide

/-! ### Decoding: one frame for every command, its bytes as R83 and R85 lay them out -/

theorem test_decode_nop : decode [0x00] = .command .nop [] := by decide
/-- V-W1 -/
theorem test_decode_setWindow :
    decode [0x01, 0x01, 0x02, 0x03, 0x04, 0x05, 0x06, 0x07, 0x08] = .command (.setWindow 0x0102 0x0304 0x0506 0x0708) [] := by
  decide
/-- V-W4 -/
theorem test_decode_writePixel : decode [0x02, 0xF8, 0x00] = .command (.writePixel 0xF800) [] := by decide
/-- P6 -/
theorem test_decode_pack565 : decode [0x03, 0x12, 0x34, 0x56] = .command (.pack565 0x12 0x34 0x56) [] := by decide
/-- V-B1 -/
theorem test_decode_blit :
    decode [0x04, 0x00, 0x01, 0x00, 0x02, 0x00, 0x02, 0x00, 0x01, 0x00, 0x00, 0x04, 0x00] =
      .command (.blit 1 2 2 1 0x400) [] := by decide
/-- P1 -/
theorem test_decode_drawPixel :
    decode [0x10, 0x00, 0x05, 0x00, 0x05, 0x07, 0xE0] = .command (.drawPixel 5 5 0x07E0) [] := by decide
/-- P2 -/
theorem test_decode_drawLine :
    decode [0x11, 0, 0, 0, 0, 0, 5, 0, 3, 0xF8, 0x00] = .command (.drawLine 0 0 5 3 0xF800) [] := by decide
/-- P2 -/
theorem test_decode_drawCircle :
    decode [0x12, 0, 9, 0, 4, 0, 2, 0x00, 0x1F] = .command (.drawCircle 9 4 2 0x001F) [] := by decide
/-- R83 format H7, each argument its own value. -/
theorem test_decode_drawTriangle :
    decode [0x13, 0x01, 0x02, 0x03, 0x04, 0x05, 0x06, 0x07, 0x08, 0x09, 0x0A, 0x0B, 0x0C, 0x0D, 0x0E] =
      .command (.drawTriangle 0x0102 0x0304 0x0506 0x0708 0x090A 0x0B0C 0x0D0E) [] := by decide
/-- P2 -/
theorem test_decode_drawRect :
    decode [0x14, 0, 0, 0, 0, 0, 6, 0, 4, 0xFF, 0xFF] = .command (.drawRect 0 0 6 4 0xFFFF) [] := by decide
/-- P3 -/
theorem test_decode_setFont :
    decode [0x20, 0x00, 0x00, 0x01, 0x00, 0x06, 0x08] = .command (.setFont 0x100 6 8) [] := by decide
/-- P5 -/
theorem test_decode_setCursorPos : decode [0x21, 0x00, 0x03, 0x00, 0x04] = .command (.setCursorPos 3 4) [] := by decide
/-- P3 -/
theorem test_decode_setCursorStyle :
    decode [0x22, 0xF8, 0x00, 0x00, 0x01, 0x00, 0x02] = .command (.setCursorStyle 0xF800 1 2) [] := by decide
/-- P3 -/
theorem test_decode_putChar : decode [0x23, 0x41] = .command (.putChar 0x41) [] := by decide
/-- V-T10 -/
theorem test_decode_putString :
    decode [0x24, 0x00, 0x00, 0x04, 0x00, 0x00, 0xC8] = .command (.putString 0x400 200) [] := by decide
/-- P4 -/
theorem test_decode_setCjkTable :
    decode [0x30, 0x00, 0x00, 0x08, 0x00, 0x00, 0x01] = .command (.setCjkTable 0x800 1) [] := by decide
/-- P4 -/
theorem test_decode_drawCjk :
    decode [0x31, 0, 4, 0, 5, 0, 0, 0xFF, 0xFF] = .command (.drawCjk 4 5 0 0xFFFF) [] := by decide
/-- R86: a reserved opcode is a one-byte frame. -/
theorem test_decode_reserved : decode [0x07, 0x21] = .reserved 0x07 [0x21] ∧ decode [0xFF] = .reserved 0xFF [] := by decide
/-- R88: a shorter string is no frame. -/
theorem test_decode_incomplete : decode [0x01, 1, 2, 3] = .incomplete ∧ decode [] = .incomplete := by decide
/-- opcode_table.json numbers bits from the first byte's least significant bit: 0x21 first, then 00 03 00 04. -/
theorem test_decodeTableWord : decodeTableWord 40 0x0400030021 = some (.setCursorPos 3 4) := by decide
/-- The operand bits a row does not number are zeros. -/
theorem test_decodeTableWord_short :
    decodeTableWord 8 0x13 = some (.drawTriangle 0 0 0 0 0 0 0) ∧ decodeTableWord 8 0x07 = none := by decide
/-- A fetched word is the very next command: PACK565 of V-W6's first row. -/
theorem test_withFetchWord :
    (next? (step (State.reset.withFetchWord 32 0x56341203))).map (·.packResult) = some 0x11AA := by decide

/-! ### Window writer and blit -/

/-- V-W5: NOP changes nothing. -/
theorem test_nop : next? (exec .nop State.reset) = some State.reset := by decide
/-- V-W1, on a panel the window fits. -/
theorem test_setWindow :
    tokensOf (.setWindow 0x0102 0x0304 0x0506 0x0708) (boot (sized 0x0507 0x0709 1) []) =
      some ([C 0x2A] ++ D [1, 2, 5, 6] ++ [C 0x2B] ++ D [3, 4, 7, 8] ++ [C 0x2C]) := by decide
/-- V-W2: offsets are added at emission. -/
theorem test_setWindow_offsets :
    tokensOf (.setWindow 0 0 1 1) (boot { Config.launchParams with columnOffset := 2, lineOffset := 1 } []) =
      some ([C 0x2A] ++ D [0, 2, 0, 3] ++ [C 0x2B] ++ D [0, 1, 0, 2] ++ [C 0x2C]) := by decide
/-- V-W4. -/
theorem test_writePixel :
    tokensOf (.writePixel 0xF800) { State.reset with panel := inWindow 0 0 1 1 0 0 0 } = some (D [0xF8, 0x00]) := by decide
/-- V-O7: the second pixel of a row ends it. -/
theorem test_writePixel_wraps :
    (next? (exec (.writePixel 7) { State.reset with panel := inWindow 0 0 1 1 1 0 1 })).map
      (fun t => (t.panel.px, t.panel.py, t.panel.image)) = some (0, 1, [((1, 0), 7)]) := by decide
/-- V-W6, first row. -/
theorem test_pack565 : (next? (exec (.pack565 0x12 0x34 0x56) State.reset)).map (·.packResult) = some 0x11AA := by decide
/-- V-W6, 0x7F in each channel: truncation, not rounding. -/
theorem test_pack565_truncates :
    (next? (exec (.pack565 0x7F 0x7F 0x7F) State.reset)).map (·.packResult) = some 0x7BEF := by decide
/-- V-B1's tokens and V-B2's image. -/
theorem test_blit :
    tokensOf (.blit 1 2 2 1 0x400) (boot Config.launchParams (cells 0x400 [0x12, 0x34, 0xAB, 0xCD])) =
      some ([C 0x2A] ++ D [0, 1, 0, 2] ++ [C 0x2B] ++ D [0, 2, 0, 2] ++ [C 0x2C] ++ D [0x12, 0x34, 0xAB, 0xCD]) ∧
    imageOf (.blit 1 2 3 2 0x400)
      (boot Config.launchParams (cells 0x400 [0x10, 0x11, 0x12, 0x13, 0x14, 0x15, 0x16, 0x17, 0x18, 0x19, 0x1A, 0x1B])) =
      some [((1, 2), 0x1011), ((2, 2), 0x1213), ((3, 2), 0x1415), ((1, 3), 0x1617), ((2, 3), 0x1819), ((3, 3), 0x1A1B)] := by
  decide
/-- V-B3, V-B4: both verdicts before any token. -/
theorem test_blit_verdicts :
    verdictOf (.blit 0 0 2 2 0x400) (boot (sized 16 16 0x404) []) = some (some .memRange, 0) ∧
    verdictOf (.blit 0 0 0 2 0x400) State.reset = some (some .zeroBlit, 0) := by decide

/-! ### Rasterizer -/

/-- P1: offsets 2 and 1. -/
theorem test_drawPixel :
    tokensOf (.drawPixel 5 5 0x07E0) (boot { Config.launchParams with columnOffset := 2, lineOffset := 1 } []) =
      some ([C 0x2A] ++ D [0, 7, 0, 7] ++ [C 0x2B] ++ D [0, 6, 0, 6] ++ [C 0x2C] ++ D [0x07, 0xE0]) := by decide
/-- L1-2, V-L3. -/
theorem test_drawLine_point : imageOf (.drawLine 5 5 5 5 0xFFFF) State.reset = some [((5, 5), 0xFFFF)] := by decide
/-- V-L7. -/
theorem test_drawLine :
    imageOf (.drawLine 0 0 5 2 1) State.reset =
      some [((0, 0), 1), ((1, 0), 1), ((2, 1), 1), ((3, 1), 1), ((4, 2), 1), ((5, 2), 1)] := by decide
/-- V-L4, V-L5, V-L8, V-L11, V-L14: points in plot order, both directions. -/
theorem test_linePoints :
    linePoints 0 0 2 1 = [(0, 0), (1, 0), (2, 1)] ∧ linePoints 2 1 0 0 = [(2, 1), (1, 1), (0, 0)] ∧
    linePoints 10 10 7 14 = [(10, 10), (9, 11), (9, 12), (8, 13), (7, 14)] ∧
    linePoints 3 1 0 0 = [(3, 1), (2, 1), (1, 0), (0, 0)] ∧
    linePoints 7 2 1 4 = [(7, 2), (6, 2), (5, 3), (4, 3), (3, 3), (2, 4), (1, 4)] := by decide
/-- V-C2: two steps in octant order. -/
theorem test_circlePoints :
    circlePoints 20 20 2 =
      [(22, 20), (20, 22), (20, 22), (18, 20), (18, 20), (20, 18), (20, 18), (22, 20),
       (21, 21), (21, 21), (19, 21), (19, 21), (19, 19), (19, 19), (21, 19), (21, 19)] := by decide
/-- L1-5: radius 0 is eight Plots of one place. -/
theorem test_drawCircle_point :
    (next? (exec (.drawCircle 10 10 0 0xF800) State.reset)).map (fun t => (t.trace.length, t.panel.image)) =
      some (104, [((10, 10), 0xF800)]) := by decide +kernel
/-- V-C6: the fourth Plot is at (-1, 0), emitted modulo 2^16; its begin-memory-write is the verdict. -/
theorem test_drawCircle_offPanel :
    (next? (exec (.drawCircle 0 0 1 0x0001) State.reset)).map
      (fun t => (t.undef, (t.trace.map (·.token)).drop 39)) =
      some (some .panelWindow, [C 0x2A] ++ D [0xFF, 0xFF, 0xFF, 0xFF] ++ [C 0x2B] ++ D [0, 0, 0, 0] ++ [C 0x2C]) := by
  decide +kernel
/-- V-P1. -/
theorem test_trianglePoints :
    trianglePoints 0 0 4 0 0 3 =
      [(0, 0), (1, 0), (2, 0), (3, 0), (4, 0), (4, 0), (3, 1), (2, 1), (1, 2), (0, 3), (0, 3), (0, 2), (0, 1), (0, 0)] := by
  decide
/-- V-P6: 3 × 13 tokens. -/
theorem test_drawTriangle_point :
    (next? (exec (.drawTriangle 2 2 2 2 2 2 9) State.reset)).map (fun t => (t.trace.length, t.panel.image)) =
      some (39, [((2, 2), 9)]) := by decide
/-- V-P4. -/
theorem test_rectPoints :
    rectPoints 0 0 1 3 = [(0, 0), (0, 0), (0, 1), (0, 2), (0, 2), (0, 2), (0, 1), (0, 0)] := by decide
/-- V-P5, and V-P3's four Plots. -/
theorem test_drawRect :
    verdictOf (.drawRect 0 0 0 5 1) State.reset = some (some .zeroRect, 0) ∧
    verdictOf (.drawRect 0 0 5 0 1) State.reset = some (some .zeroRect, 0) ∧
    verdictOf (.drawRect 7 7 1 1 1) State.reset = some (none, 52) := by decide

/-! ### Text -/

/-- The setting of V-T1 to V-T6: panel 60 by 40, font 0x100 of 6 by 8, glyph 'A', color 0xF800, spacing 1 and 2. -/
def textState (lines x y : Half) : State :=
  { boot (sized 60 lines 0x1000) (cells 0x208 [0x0E, 0x11, 0x11, 0x1F, 0x11, 0x11, 0x11, 0x00]) with
    fontBase := 0x100, fontW := 6, fontH := 8, curColor := 0xF800, curCspace := 1, curLspace := 2, curX := x, curY := y }

/-- A font of 1 by 1 at 0x100 whose glyphs are all dark, on a panel 60 by 40. -/
def dotState (x y : Half) : State :=
  { boot (sized 60 40 0x1000) [] with fontBase := 0x100, fontW := 1, fontH := 1, curX := x, curY := y }

/-- P3. -/
theorem test_setFont :
    (next? (exec (.setFont 0x100 6 8) State.reset)).map (fun t => (t.fontBase, registerValue t 7)) = some (0x100, 0x0806) := by
  decide
theorem test_setCursorPos : cursorOf (.setCursorPos 50 7) State.reset = some (50, 7) := by decide
/-- P3. -/
theorem test_setCursorStyle :
    (next? (exec (.setCursorStyle 0xF800 1 2) State.reset)).map (·.style) = some (0xF800, 1, 2) := by decide
/-- V-T1: the cursor, the count of tokens, and row 0 of the image. V-T2: the wrap. V-T6: CUR_X is stored modulo 2^16 after
the wrap test was made in ℤ. -/
theorem test_putChar :
    (next? (exec (.putChar 0x41) (textState 40 0 0))).map (fun t => (t.cursor, t.trace.length, t.panel.image.take 6)) =
      some ((7, 0), 107, [((0, 0), 0), ((1, 0), 0xF800), ((2, 0), 0xF800), ((3, 0), 0xF800), ((4, 0), 0), ((5, 0), 0)]) ∧
    (next? (exec (.putChar 0x41) (textState 40 56 0))).map
      (fun t => (t.cursor, (t.trace.map (·.token)).take 11)) =
      some ((7, 10), [C 0x2A] ++ D [0, 0, 0, 5] ++ [C 0x2B] ++ D [0, 0x0A, 0, 0x11] ++ [C 0x2C]) ∧
    cursorOf (.putChar 0x41) { textState 40 0 0 with curCspace := 65535 } = some (5, 10) := by
  decide +kernel
/-- V-T3: LineAdvance's table. L1-8, V-T4: a codepoint that is not printable does not wrap (90_conflicts.md C1). V-T8, V-T9:
the font first, then the glyph's memory. -/
theorem test_putChar_silent :
    [(40, 0), (40, 20), (40, 30), (38, 20), (38, 21)].map (fun ly => cursorOf (.putChar 0x0A) (textState ly.1 9 ly.2)) =
      [some (0, 10), some (0, 30), some (0, 0), some (0, 30), some (0, 0)] ∧
    cursorOf (.putChar 31) (textState 40 56 0) = some (56, 0) ∧
    [0x0D, 0, 128].map (fun ch => cursorOf (.putChar ch) (textState 40 9 20)) = [some (9, 20), some (9, 20), some (9, 20)] ∧
    verdictOf (.putChar 0x0A) State.reset = some (some .fontConfig, 0) ∧
    verdictOf (.putChar 0x41) { textState 40 0 0 with fontW := 17 } = some (some .fontConfig, 0) ∧
    verdictOf (.putChar 0x41) { textState 40 0 0 with params := sized 60 40 0x200 } = some (some .memRange, 0) := by decide
/-- V-T7: both rows of a glyph wider than a byte. -/
theorem test_glyphColors_wide :
    glyphColors { State.reset with fontW := 12, fontH := 2, curColor := 0xFFFF } [0x81, 0x0A, 0xFF, 0xF5] =
      [0xFFFF, 0, 0, 0, 0, 0, 0, 0xFFFF, 0, 0xFFFF, 0, 0xFFFF] ++ List.replicate 9 0xFFFF ++ [0, 0xFFFF, 0] := by decide
/-- V-T11's string on a 1 by 1 font: a zero byte ends nothing. -/
theorem test_putString :
    (next? (exec (.putString 0x300 3) { dotState 0 20 with mem := cells 0x300 [0x41, 0, 0x41] })).map
      (fun t => (t.cursor, t.trace.length)) = some ((2, 20), 26) := by decide
/-- V-T10's truncation, in how many bytes are consumed; V-T12: length 0. -/
theorem test_putString_bound :
    stringCount (dotState 0 0) 200 = 127 ∧
    stringCount { dotState 0 0 with params := { Config.launchParams with textMax := .chars128 } } 200 = 128 ∧
    next? (exec (.putString 0x300 0) (dotState 3 4)) = some (dotState 3 4) := by decide

/-! ### CJK -/

/-- V-J1's entry at 0x800 on a panel of 32 by 32, the table set. -/
def cjkState (mode : BgMode) : State :=
  { boot { sized 32 32 0x1000 with cjkBg := mode }
      (cells 0x800 [0x01, 0x02, 0x04, 0x08, 0x10, 0x20, 0x40, 0x80, 0xFF, 0, 0, 0, 0, 0, 0, 0x81] ++
        cells 0x810 [0x80, 0, 0, 0, 0, 0, 0, 0, 0, 0, 0, 0, 0, 0, 0, 0x01]) with
    cjkBase := 0x800, cjkCount := 1 }

/-- P4. -/
theorem test_setCjkTable : (next? (exec (.setCjkTable 0x800 1) State.reset)).map (·.cjk) = some (0x800, 1) := by decide
/-- V-J1. TRANSPARENT: 20 Plots, the first for B[0] bit 0; the last image place is (4, 20). BLACK: 523 tokens, and row 7 of
the image. -/
theorem test_drawCjk :
    (tokensOf (.drawCjk 4 5 0 0xFFFF) (cjkState .transparent)).map (fun ts => (ts.length, ts.take 13)) =
      some (260, [C 0x2A] ++ D [0, 4, 0, 4] ++ [C 0x2B] ++ D [0, 5, 0, 5] ++ [C 0x2C] ++ D [0xFF, 0xFF]) ∧
    (imageOf (.drawCjk 4 5 0 0xFFFF) (cjkState .transparent)).map (fun m => (m.length, m.drop 19)) =
      some (20, [((4, 20), 0xFFFF)]) ∧
    (next? (exec (.drawCjk 4 5 0 0xFFFF) (cjkState .black))).map
      (fun t => (t.trace.length, (t.panel.image.drop (16 * 7)).take 16 |>.map (·.2))) =
      some (523, [0, 0, 0, 0, 0, 0, 0, 0xFFFF, 0xFFFF, 0, 0, 0, 0, 0, 0, 0xFFFF]) := by decide +kernel
/-- V-J2, V-J3. -/
theorem test_drawCjk_verdicts :
    verdictOf (.drawCjk 0 0 1 1) (cjkState .black) = some (some .cjkIndex, 0) ∧
    verdictOf (.drawCjk 0 0 0 1) State.reset = some (some .cjkIndex, 0) ∧
    verdictOf (.drawCjk 0 0 0 1) { cjkState .black with params := sized 32 32 0x810 } = some (some .memRange, 0) := by decide

/-! ### Dispatch, faults, reset, the observer -/

/-- V-F1. -/
theorem test_reset_registers :
    (List.range 12).map (fun n => registerValue State.reset (BitVec.ofNat 8 n)) = [2, 0, 0, 0, 0, 0, 0, 0, 0, 0, 0, 0] := by
  decide
/-- V-F2. -/
theorem test_reserved_opcode :
    (next? (step (presentFrame [0x07] State.reset))).map (fun t => (statusWord t, t.trace)) = some (0x206, []) := by decide
/-- V-F3: a frame after the fault is refused. -/
theorem test_refused_frame :
    (next? (exec (.setCursorPos 3 4) { State.reset with fault := true, faultCode := .illegalCmd })).map
      (fun t => (t.cursor, statusWord t)) = some ((0, 0), 0x206) := by decide
/-- V-F4. -/
theorem test_transport_failure :
    (next? (exec (.drawLine 0 0 4 0 0x07E0)
      { State.reset with draws := List.replicate 30 (.answer .ok) ++ [.answer .fail] })).map
      (fun t => (t.trace.length, statusWord t, t.panel.lost)) = some (31, 0x106, true) := by decide
/-- V-F5. -/
theorem test_not_ready : verdictOf .nop { State.reset with ready := false } = some (some .notReady, 0) := by decide
/-- R270: reset after V-F4's fault gives V-F1's STATUS again; the observer stays LOST. -/
theorem test_reset_clears_fault :
    (next? (step { State.reset with
      fault := true, faultCode := .transport, curX := 5, host := [.reset],
      panel := { Panel.initial with lost := true } })).map
      (fun t => (statusWord t, t.curX, t.panel.lost)) = some (2, 0, true) := by decide
/-- R270: a reset that lands inside a command abandons it: the tokens offered stay, none follows. -/
theorem test_reset_inside_command :
    ((next? (exec (.drawPixel 1 1 7) { State.reset with draws := [.answer .ok, .pause], host := [.reset] })).bind
      fun t => next? (step t)).map (fun t => (t.busy, t.trace.length, t.panel.mode)) = some (false, 1, .col []) := by decide
/-- R281: a read that lands inside NOP sees BUSY = 1 (STATUS 3), and NOP ends. -/
theorem test_read_inside_nop :
    ((next? (step { State.reset with draws := [.pause], host := [.send [0x00], .read 0] })).bind fun t => next? (step t)).map
      (fun t => (t.reads, t.busy, t.work)) = some ([⟨0, 3⟩], false, none) := by decide
/-- A reset that lands in a frame the block refuses, before BUSY falls, clears the fault (R270, R281). -/
theorem test_reset_inside_refusal :
    ((next? (step { State.reset with
      draws := [.pause], fault := true, faultCode := .illegalCmd, host := [.send [0x07], .reset] })).bind
      fun t => next? (step t)).map (fun t => (statusWord t, t.work)) = some (2, none) := by decide
/-- V-O1 at its last command. -/
theorem test_panel_short :
    verdictOf (.drawPixel 3 3 1) { State.reset with panel := inWindow 0 0 1 0 1 0 1 } = some (some .panelShort, 1) := by decide
/-- V-O2, V-O6: a full stream. -/
theorem test_panel_overrun :
    verdictOf (.writePixel 5) { State.reset with panel := inWindow 0 0 0 0 0 1 1 } = some (some .panelOverrun, 2) := by decide
/-- V-O3, V-O4. -/
theorem test_panel_window :
    verdictOf (.setWindow 2 0 1 0) State.reset = some (some .panelWindow, 11) ∧
    verdictOf (.setWindow 0 0 16 0) State.reset = some (some .panelWindow, 11) ∧
    verdictOf (.setWindow 15 15 15 15) State.reset = some (none, 11) := by decide
/-- V-O5. -/
theorem test_panel_protocol : verdictOf (.writePixel 5) State.reset = some (some .panelProtocol, 1) := by decide

/-- R95, R96: the textual form and the pseudo-commands. -/
theorem test_pseudo :
    fillWindow 0 0 1 0 7 = [.setWindow 0 0 1 0, .writePixel 7, .writePixel 7] ∧ fillWindow 1 0 0 0 7 = [.setWindow 1 0 0 0] ∧
    puts [0x41, 0x0A] = [.putChar 0x41, .putChar 0x0A] ∧ rgb 1 2 3 = [.pack565 1 2 3] ∧
    loadBytes 0x400 [1, 2] = [.store 0x400 1, .store 0x401 2] ∧ sends [.nop] = [.send [0]] := by decide

/-! ### Witnesses: for each obligation with hypotheses, a state and operands that meet them all -/

/-- Launched, with one host's move waiting. -/
def facing (move : HostMove) : State := { State.reset with host := [move] }

/-- Launched, with these draws to come. -/
def meeting (draws : List Draw) : State := { State.reset with draws := draws }

/-- `State.reset` with a font whose glyphs lie in memory, the cursor in the last place a 1 by 1 cell fits. -/
def dotAt (x y : Half) : State := { State.reset with fontBase := 0x100, fontW := 1, fontH := 1, curX := x, curY := y }

theorem test_witness_EncodeInvertsDecode : decode [0x03, 1, 2, 3, 0x99] = .command (.pack565 1 2 3) [0x99] := by decide
/-- The second clause at its boundary: one byte short, exactly enough. -/
theorem test_witness_DecoderIsTotal :
    frameLength 0x02 = some 3 ∧ decode [0x02, 0] = .incomplete ∧ decode [0x02, 0, 1] = .command (.writePixel 1) [] := by decide
theorem test_witness_StepRunsTheDecodedFrame :
    (facing (.send [0x00, 0x00])).undef = none ∧ (facing (.send [0x00, 0x00])).busy = false ∧
    (facing (.send [0x00, 0x00])).host = .send [0x00, 0x00] :: [] ∧ decode [0x00, 0x00] = .command .nop [0x00] := by decide
/-- The first and the last opcode of each of R86's ranges, and the opcodes beside them. -/
theorem test_witness_ReservedOpcodeFaults :
    (facing (.send [0x32])).accepting ∧ (facing (.send [0x32])).quiet 0 ∧ (facing (.send [0x32])).host = .send [0x32] :: [] ∧
    [0x05, 0x0F, 0x15, 0x1F, 0x25, 0x2F, 0x32, 0xFF].all reservedOpcode = true ∧
    [0x00, 0x04, 0x10, 0x14, 0x20, 0x24, 0x30, 0x31].all (fun b => !reservedOpcode b) = true := by decide
theorem test_witness_FaultedBlockRefusesFrames :
    { facing (.send [0x07]) with fault := true, faultCode := .transport }.idle ∧
    { facing (.send [0x07]) with fault := true, faultCode := .transport }.quiet 0 ∧ reservedOpcode 0x07 = true ∧
    (next? (step { facing (.send [0x07]) with fault := true, faultCode := .transport })).isSome = true ∧
    (next? (step { facing .reset with fault := true, faultCode := .transport })).isSome = true := by decide
theorem test_witness_NotReadyVerdict :
    { facing (.send [0x07]) with ready := false }.idle ∧ { facing (.send [0x07]) with ready := false }.quiet 0 ∧
    { facing (.send [0x07]) with ready := false }.fault = false ∧
    { facing (.send [0x07]) with ready := false }.ready = false ∧ reservedOpcode 0x07 = true := by decide
theorem test_witness_NoStepAfterVerdict :
    { State.reset with undef := some .memRange }.undef = some .memRange ∧
    stop? (step { State.reset with undef := some .memRange }) = some (.stopped .memRange) := by decide
/-- A frame waits while a command does, and the command goes on. -/
theorem test_witness_PortTakesNoFrameWhileBusy :
    { facing (.send [0x00]) with busy := true, work := some ⟨.command .nop, [], .host⟩ }.undef = none ∧
    (next? (step { facing (.send [0x00]) with busy := true, work := some ⟨.command .nop, [], .host⟩ })).map (·.host) =
      some [.send [0x00]] := by decide
/-- A failure at the second token of WRITE_PIXEL, the observer in an open window. -/
theorem test_witness_TransportFailureAborts :
    { meeting [.answer .ok, .answer .fail] with panel := inWindow 0 0 0 0 0 0 0 }.accepting ∧
    effectsOf (.writePixel 0x1234) { meeting [.answer .ok, .answer .fail] with panel := inWindow 0 0 0 0 0 0 0 } =
      [.emit ⟨.data, 0x12⟩] ++ .emit ⟨.data, 0x34⟩ :: [] ∧
    { meeting [.answer .ok, .answer .fail] with panel := inWindow 0 0 0 0 0 0 0 }.quiet
      (effectTokens [.emit ⟨.data, 0x12⟩]).length ∧
    [Draw.answer .ok, .answer .fail][(effectTokens [.emit ⟨.data, 0x12⟩]).length]? = some (.answer .fail) ∧
    observeAll Config.launchParams (effectTokens [.emit ⟨.data, 0x12⟩]) (inWindow 0 0 0 0 0 0 0) =
      .ok { inWindow 0 0 0 0 0 0 0 with hi := some 0x12 } := by
  refine ⟨by decide, by decide, by decide, by decide, rfl⟩
/-- No answer to the very first token. -/
theorem test_witness_UnansweredTokenHangs :
    (meeting [.answer .never]).accepting ∧
    effectsOf (.writePixel 0x1234) (meeting [.answer .never]) = [] ++ .emit ⟨.data, 0x12⟩ :: [.emit ⟨.data, 0x34⟩] ∧
    (meeting [.answer .never]).quiet 0 ∧ (meeting [.answer .never]).draws[0]? = some (.answer .never) ∧
    observeAll Config.launchParams [] Panel.initial = .ok Panel.initial ∧ (meeting [.answer .never]).host = [] := by
  refine ⟨by decide, by decide, by decide, by decide, rfl, rfl⟩
theorem test_witness_CommandsComplete :
    State.reset.accepting ∧ (∀ r, Effect.verdict r ∉ effectsOf (.drawPixel 15 15 7) State.reset) ∧
    State.reset.quiet (effectTokens (effectsOf (.drawPixel 15 15 7) State.reset)).length ∧
    ∃ q, observeAll State.reset.params (effectTokens (effectsOf (.drawPixel 15 15 7) State.reset)) State.reset.panel =
      .ok q := by
  refine ⟨by decide, fun r => by cases r <;> decide, by decide, ⟨_, rfl⟩⟩
/-- Its own verdict after a write, in a string whose first glyph lies past memory. -/
theorem test_witness_CommandsComplete_own :
    let s := { dotAt 0 0 with fontBase := 0xFA1, mem := cells 0x300 [0x0A, 0x7F] }
    s.accepting ∧ effectsOf (.putString 0x300 2) s = [.write (.curX 0), .write (.curY 1)] ++ .verdict .memRange :: [] ∧
    s.quiet (effectTokens [.write (.curX 0), .write (.curY 1)]).length ∧
    observeAll s.params (effectTokens [.write (.curX 0), .write (.curY 1)]) s.panel = .ok Panel.initial := by
  refine ⟨by decide, by decide, by decide, rfl⟩
/-- The observer's, at the second token, with nothing said of the answers after it: V-O2's second pixel. -/
theorem test_witness_CommandsComplete_observer :
    let s := { meeting [.answer .ok, .answer .ok, .pause] with panel := inWindow 0 0 0 0 0 1 1 }
    s.accepting ∧ effectsOf (.writePixel 2) s = [.emit ⟨.data, 0⟩] ++ .emit ⟨.data, 2⟩ :: [] ∧
    s.answersOk ((effectTokens [.emit ⟨.data, 0⟩]).length + 1) ∧
    ∃ q, observeAll s.params (effectTokens [.emit ⟨.data, 0⟩]) s.panel = .ok q ∧
      observe s.params ⟨.data, 2⟩ q = .error .panelOverrun := by
  refine ⟨by decide, by decide, by decide, ⟨_, rfl, rfl⟩⟩
/-- A reset while idle, and one while a token is never answered. -/
theorem test_witness_ResetRestoresTheRegisters :
    (facing .reset).undef = none ∧ (facing .reset).host = .reset :: [] ∧
    (next? (step { facing .reset with busy := true, work := some ⟨.command (.writePixel 1), [], .transport⟩ })).map (·.busy) =
      some false := by decide
theorem test_witness_LaunchedRegistersReadZero :
    registerValue (State.launch Config.launchParams false [] [] []) 0 = 0 ∧ (0x0A : Byte) ≠ 0 := by decide
/-- The edges of STATUS's zero fields. -/
theorem test_witness_StatusShowsItsFields :
    [3, 7, 12, 31].all (fun k => !(registerValue { State.reset with fault := true, faultCode := .illegalCmd } 0).getLsbD k) =
      true ∧ (registerValue { State.reset with fault := true, faultCode := .illegalCmd } 0).toNat / 256 % 16 = 2 := by decide
theorem test_witness_RegisterPortReturnsTheRegisters :
    State.reset.busy = false ∧ 0x0B ≤ (0x0B : Byte).toNat ∧ 0x0B ≤ (0xFF : Byte).toNat := by decide
theorem test_witness_RegisterReadHasNoSideEffect :
    (facing (.read 1)).undef = none ∧ (facing (.read 1)).busy = false ∧ (facing (.read 1)).host = .read 1 :: [] ∧
    { facing (.read 0) with busy := true, work := some ⟨.command .nop, [], .host⟩ }.work = some ⟨.command .nop, [], .host⟩ ∧
    (⟨.command .nop, [], .host⟩ : Work).waiting = .host ∧ (⟨.command .nop, [], .transport⟩ : Work).waiting = .transport ∧
    (next? (step { facing (.read 0) with busy := true, work := some ⟨.command .nop, [], .transport⟩ })).map (·.reads) =
      some [⟨0, 3⟩] := by decide
/-- All of DRAW_PIXEL's effects, and the first alone: the observer takes their tokens. -/
theorem test_witness_WaitingCommandGoesOn_tokens :
    State.reset.accepting ∧ [1, 13].map (fun n => (effectTokens ((effectsOf (.drawPixel 1 1 7) State.reset).take n)).length) =
      [1, 13] ∧ (effectsOf (.drawPixel 1 1 7) State.reset).length = 13 ∧
    (∀ r, Effect.verdict r ∉ effectsOf (.drawPixel 1 1 7) State.reset) ∧
    ∃ q, observeAll State.reset.params (effectTokens (effectsOf (.drawPixel 1 1 7) State.reset)) State.reset.panel = .ok q := by
  refine ⟨by decide, by decide, by decide, fun r => by cases r <;> decide, ⟨_, rfl⟩⟩
/-- Before the first effect, after the first token, after the last, and in a command without tokens. -/
theorem test_witness_WaitingCommandGoesOn :
    State.reset.idle ∧ State.reset.host = [] ∧
    [0, 1, 13].map (fun n => (next? (exec (.drawPixel 1 1 7) { State.reset with
      draws := List.replicate n (.answer .ok) ++ .pause :: [] })).map (fun u => (u.busy, u.trace.length))) =
      [some (true, 0), some (true, 1), some (true, 13)] ∧
    (next? (exec .nop { State.reset with draws := [] ++ .pause :: [] })).map (·.busy) = some true := by decide
theorem test_witness_IdleBlockKeepsItsState :
    State.reset.undef = none ∧ State.reset.busy = false ∧ State.reset.host = [] ∧
    (∀ bytes moves, (facing (.read 1)).host ≠ .send bytes :: moves) ∧ (∀ moves, (facing (.read 1)).host ≠ .reset :: moves) ∧
    (next? (step (facing (.read 1)))).isSome = true ∧
    (facing (.send [0x21, 0, 3, 0])).host = .send [0x21, 0, 3, 0] :: [] ∧ decode [0x21, 0, 3, 0] = .incomplete := by
  refine ⟨rfl, rfl, rfl, by simp [facing], by simp [facing], by decide, rfl, by decide⟩
theorem test_witness_accepting : State.reset.accepting ∧ State.reset.quiet 0 := by decide
theorem test_witness_SetWindowOffersElevenTokens :
    State.reset.accepting ∧ State.reset.quiet 11 ∧
    ∃ q, observeAll State.reset.params (shownWindow State.reset.params 0 0 15 15) State.reset.panel = .ok q := by
  refine ⟨by decide, by decide, ⟨_, rfl⟩⟩
/-- The whole panel, from a settled observer: idle, and in a full stream. -/
theorem test_witness_SetWindowOpensTheStream :
    State.reset.accepting ∧ State.reset.quiet 11 ∧ State.reset.panel.settled ∧ (inWindow 0 0 0 0 0 1 1).settled ∧
    State.reset.params.distinctCommands ∧ State.reset.params.offsetsFit ∧ (0 : Half).toNat ≤ (15 : Half).toNat ∧
    (15 : Half).toNat < State.reset.params.columnCount.toNat ∧ (15 : Half).toNat < State.reset.params.lineCount.toNat := by
  decide
/-- Each way out: reversed by one, one past the panel, and a sum with the offset of exactly 65536. -/
theorem test_witness_OffPanelWindowsAreVerdicts :
    State.reset.accepting ∧ State.reset.answersOk 11 ∧ State.reset.panel.settled ∧ State.reset.params.distinctCommands ∧
    (1 : Half).toNat < (2 : Half).toNat ∧
    State.reset.params.columnCount.toNat ≤ (16 : Half).toNat ∧ State.reset.params.lineCount.toNat ≤ (16 : Half).toNat ∧
    (1 : Half).toNat + (0xFFFF : Half).toNat = 65536 ∧
    verdictOf (.setWindow 0 0 1 0) (boot { Config.launchParams with columnOffset := 0xFFFF } []) =
      some (some .panelWindow, 11) := by decide
/-- V-C6's circle, whose fourth point is the first off the panel; V-W3's place 65536, which is emitted as column 0. -/
theorem test_witness_OffPanelWindowsAreVerdicts_points :
    rasterPlot (.drawCircle 0 0 1 1) =
      some (1, [(1, 0), (0, 1), (0, 1)] ++ (-1, 0) :: [(-1, 0), (0, -1), (0, -1), (1, 0)]) ∧
    State.reset.answersOk (13 * 3 + 11) ∧
    (∀ ab ∈ [((1 : Int), (0 : Int)), (0, 1), (0, 1)], State.reset.params.onPanel (Panel.place State.reset.params ab)) ∧
    ¬ State.reset.params.onPanel (Panel.place State.reset.params (-1, 0)) ∧
    Panel.place State.reset.params (65536, 0) = (0, 0) ∧
    verdictOf (.drawCircle 0 0 1 1) State.reset = some (some .panelWindow, 3 * 13 + 11) := by decide +kernel
/-- One column past the panel: an image, a character and a CJK cell in both modes. -/
theorem test_witness_OffPanelWindowsAreVerdicts_cells :
    (dotAt 0 0).params.columnCount.toNat < (15 : Half).toNat + (2 : Half).toNat ∧
    verdictOf (.blit 15 0 2 1 0) State.reset = some (some .panelWindow, 11) ∧
    { dotAt 0 0 with params := sized 1 16 0x1000, fontW := 2 }.accepting ∧
    fontLegal { dotAt 0 0 with params := sized 1 16 0x1000, fontW := 2 } ∧
    glyphInMemory { dotAt 0 0 with params := sized 1 16 0x1000, fontW := 2 } 0x41 ∧
    (sized 1 16 0x1000).columnCount.toNat < (drawnColumn { dotAt 0 0 with params := sized 1 16 0x1000, fontW := 2 }).toNat + 2 ∧
    (cjkState .black).accepting ∧ (cjkState .black).params.columnCount.toNat < (17 : Half).toNat + 16 ∧
    verdictOf (.drawCjk 17 0 0 1) (cjkState .black) = some (some .panelWindow, 11) ∧
    (cjkState .transparent).accepting ∧
    ¬ (cjkState .transparent).params.onPanel (Panel.place (cjkState .transparent).params (32, 0)) ∧
    verdictOf (.drawCjk 32 0 0 1) (cjkState .transparent) = some (some .panelWindow, 11) := by decide
theorem test_witness_WritePixelOffersTwoTokens :
    { State.reset with panel := inWindow 0 0 0 0 0 0 0 }.accepting ∧
    { State.reset with panel := inWindow 0 0 0 0 0 0 0 }.quiet 2 ∧
    ∃ q, observeAll Config.launchParams (shownHalf 0xFFFF) (inWindow 0 0 0 0 0 0 0) = .ok q := by
  refine ⟨by decide, by decide, ⟨_, rfl⟩⟩
/-- One pixel before the end; at the end; no stream. -/
theorem test_witness_WritePixelAtTheObserver :
    { State.reset with panel := inWindow 0 0 1 0 1 0 1 }.accepting ∧ (inWindow 0 0 1 0 1 0 1).lost = false ∧
    (inWindow 0 0 1 0 1 0 1).mode = .stream ∧ (inWindow 0 0 1 0 1 0 1).hi = none ∧
    (inWindow 0 0 1 0 1 0 1).cs = some 0 ∧ (inWindow 0 0 1 0 1 0 1).ce = some 1 ∧
    (inWindow 0 0 1 0 1 0 1).count ≠ windowSize (inWindow 0 0 1 0 1 0 1) ∧
    (inWindow 0 0 1 0 0 1 2).count = windowSize (inWindow 0 0 1 0 0 1 2) ∧ Panel.initial.mode = .idle := by decide
/-- The last bytes of memory. -/
theorem test_witness_BlitStreamsVerbatim :
    State.reset.accepting ∧ (1 : Half) ≠ 0 ∧ (0xFFE : Word).toNat + 2 * (1 : Half).toNat * (1 : Half).toNat = State.reset.params.memSize ∧
    State.reset.quiet (11 + 2 * (1 : Half).toNat * (1 : Half).toNat) ∧
    ∃ q, observeAll State.reset.params
      (windowTokens State.reset.params (coord 15) (coord 15) (coord 15 + coord 1 - 1) (coord 15 + coord 1 - 1) ++
        (List.range (2 * (1 : Half).toNat * (1 : Half).toNat)).map
          (fun k => ⟨.data, readByte State.reset.mem ((0xFFE : Word).toNat + k)⟩)) State.reset.panel = .ok q := by
  refine ⟨by decide, by decide, by decide, by decide, ⟨_, rfl⟩⟩
/-- The panel's last column and line. -/
theorem test_witness_BlitPaintsTheImage :
    State.reset.accepting ∧ (0 : Word).toNat + 2 * (2 : Half).toNat * (2 : Half).toNat ≤ State.reset.params.memSize ∧
    State.reset.quiet (11 + 2 * (2 : Half).toNat * (2 : Half).toNat) ∧ State.reset.panel.settled ∧
    State.reset.params.distinctCommands ∧ State.reset.params.offsetsFit ∧
    (14 : Half).toNat + (2 : Half).toNat ≤ State.reset.params.columnCount.toNat ∧
    (14 : Half).toNat + (2 : Half).toNat ≤ State.reset.params.lineCount.toNat ∧
    0 < (2 : Half).toNat * (2 : Half).toNat := by decide
/-- Each of the five commands has its points; a rectangle of zero size has none. -/
theorem test_witness_RasterCommandsOfferTheirPlots :
    rasterPlot (.drawPixel 15 15 7) = some (7, [(15, 15)]) ∧ rasterPlot (.drawLine 0 0 1 0 7) = some (7, [(0, 0), (1, 0)]) ∧
    rasterPlot (.drawCircle 3 3 0 7) = some (7, List.replicate 8 (3, 3)) ∧
    rasterPlot (.drawTriangle 3 3 3 3 3 3 7) = some (7, [(3, 3), (3, 3), (3, 3)]) ∧
    rasterPlot (.drawRect 3 3 1 1 7) = some (7, [(3, 3), (3, 3), (3, 3), (3, 3)]) ∧ rasterPlot (.drawRect 3 3 0 1 7) = none ∧
    State.reset.accepting ∧ State.reset.quiet (13 * 1) ∧
    ∃ q, observeAll State.reset.params ([((15 : Int), (15 : Int))].flatMap (plotTokens State.reset.params 7))
      State.reset.panel = .ok q := by
  refine ⟨by decide, by decide, by decide, by decide, by decide, by decide, by decide, by decide, ⟨_, rfl⟩⟩
/-- The panel's corners. -/
theorem test_witness_RasterCommandsPaintTheirPoints :
    rasterPlot (.drawLine 15 15 0 15 7) = some (7, linePoints 15 15 0 15) ∧ State.reset.accepting ∧
    State.reset.quiet (13 * (linePoints 15 15 0 15).length) ∧ State.reset.panel.settled ∧
    State.reset.params.distinctCommands ∧ State.reset.params.offsetsFit ∧
    ∀ xy ∈ linePoints 15 15 0 15, State.reset.params.onPanel xy := by decide
theorem test_witness_LineStaysInItsBox : ((1, 0) : Int × Int) ∈ linePoints 0 0 2 1 := by decide
/-- V-C5's step counts, and V-C4's trace of r = 5. -/
theorem test_witness_CircleEndsInItsBox :
    circleNext (5, 0, 0) = (4, 1, -6) ∧ circleNext (4, 1, -6) = (4, 2, -1) ∧ circleNext (4, 2, -1) = (3, 3, -1) ∧
    circleNext (3, 3, -1) = (2, 4, 3) ∧
    (List.range 12).map (fun r => (circlePoints 0 0 (BitVec.ofNat 16 r)).length / 8) = [1, 1, 2, 2, 3, 4, 4, 5, 6, 6, 7, 8] ∧
    ((5, 0) : Int × Int) ∈ circlePoints 0 0 5 := by decide +kernel
/-- L1-6, and the smallest size. -/
theorem test_witness_RectIsTheBoxOutline :
    (rectPoints 0 0 10 5).length = 30 ∧ (rectPoints 7 7 1 1).length = 4 ∧ ((9, 4) : Int × Int) ∈ rectPoints 0 0 10 5 := by
  decide
theorem test_witness_TriangleIsThreeLines :
    ((0, 0) : Int × Int) ≠ (4, 0) ∧ ((4, 0) : Int × Int) ≠ (0, 3) ∧ ((0, 3) : Int × Int) ≠ (0, 0) ∧
    (trianglePoints 0 0 4 0 0 3).count (4, 0) = 2 := by decide
/-- Each verdict's conditions at the first value that meets them: MEM_SIZE passed by one byte, the index equal to the count,
the first and the last printable codepoint. -/
theorem test_witness_CommandVerdictsComeFirst :
    { dotAt 0 0 with cjkCount := 1, cjkBase := 0xFE1, fontBase := 0x1000 }.accepting ∧ (dotAt 0 0).quiet 0 ∧
    (0xFFF : Word).toNat + 2 * (1 : Half).toNat * (1 : Half).toNat = Config.launchParams.memSize + 1 ∧
    fontLegal (dotAt 0 0) ∧ ¬ glyphInMemory { dotAt 0 0 with fontBase := 0x1000 } 32 ∧
    ¬ glyphInMemory { dotAt 0 0 with fontBase := 0xFA1 } 127 ∧ glyphInMemory { dotAt 0 0 with fontBase := 0xFA0 } 127 ∧
    Config.launchParams.memSize < (0x1000 : Word).toNat + min (1 : Half).toNat (textMaxChars Config.launchParams.textMax) ∧
    (1 : Half).toNat ≤ (1 : Half).toNat ∧ (0 : Half).toNat < (1 : Half).toNat ∧
    (0xFE1 : Word).toNat + 32 * (0 : Half).toNat + 32 = Config.launchParams.memSize + 1 := by decide
/-- A string whose second glyph is the first byte past memory: its first character is drawn, and then the verdict. -/
theorem test_witness_CommandVerdictsComeFirst_string :
    (List.range (min (2 : Half).toNat (textMaxChars Config.launchParams.textMax))).map
      (fun k => readByte (cells 0x300 [0x41, 0x7F]) ((0x300 : Word).toNat + k)) = [0x41] ++ 0x7F :: [] ∧
    ¬ glyphInMemory { dotAt 0 0 with fontBase := 0xFA1, mem := cells 0x300 [0x41, 0x7F] } 0x7F ∧
    (putCharsInTurn [0x41] { dotAt 0 0 with fontBase := 0xFA1, mem := cells 0x300 [0x41, 0x7F] }).map
      (fun t => (decide t.goodFinal, t.fault, t.curX)) = some (true, false, 1) ∧
    (next? (exec (.putString 0x300 2) { dotAt 0 0 with fontBase := 0xFA1, mem := cells 0x300 [0x41, 0x7F] })).map
      (fun t => (t.undef, t.curX, t.trace.length)) = some (some .memRange, 1, 13) := by decide
/-- Each way a font is not legal, at its boundary. -/
theorem test_witness_FontIsCheckedFirst :
    { dotAt 0 0 with fontW := 17 }.accepting ∧ { dotAt 0 0 with fontW := 17 }.quiet 0 ∧ (0 : Byte).toNat < 1 ∧ 16 < (17 : Byte).toNat ∧
    { dotAt 0 0 with fontW := 17 }.fontW.toNat = 17 ∧ fontLegal { dotAt 0 0 with fontW := 16, fontH := 255 } := by decide
theorem test_witness_NewlineAdvancesTheLine :
    (dotAt 0 15).accepting ∧ (dotAt 0 15).quiet 0 ∧ fontLegal (dotAt 0 15) := by decide
theorem test_witness_NonPrintableIsIgnored :
    (dotAt 15 15).accepting ∧ (dotAt 15 15).quiet 0 ∧ fontLegal (dotAt 15 15) ∧ (31 : Byte).toNat < 32 ∧ 127 < (128 : Byte).toNat ∧
    (31 : Byte) ≠ 0x0A ∧ (128 : Byte) ≠ 0x0A := by decide
/-- The last glyph, with its last byte at the top of memory, in the panel's last place. -/
theorem test_witness_PrintableCharacterIsDrawn :
    { dotAt 15 15 with fontBase := 0xFA0 }.accepting ∧ fontLegal { dotAt 15 15 with fontBase := 0xFA0 } ∧
    (127 : Byte).toNat ≤ 127 ∧ 32 ≤ (32 : Byte).toNat ∧ glyphInMemory { dotAt 15 15 with fontBase := 0xFA0 } 127 ∧
    { dotAt 15 15 with fontBase := 0xFA0 }.quiet (11 + 2 * (1 * 1)) ∧
    ∃ q, observeAll State.reset.params (windowTokens State.reset.params 15 15 15 15 ++ shownHalf 0) State.reset.panel =
      .ok q := by
  refine ⟨by decide, by decide, by decide, by decide, by decide, by decide, ⟨_, rfl⟩⟩
theorem test_witness_PrintableCharacterShowsItsGlyph :
    (dotAt 15 15).accepting ∧ fontLegal (dotAt 15 15) ∧ glyphInMemory (dotAt 15 15) 0x41 ∧
    (dotAt 15 15).quiet (11 + 2 * ((dotAt 15 15).fontW.toNat * (dotAt 15 15).fontH.toNat)) ∧
    (dotAt 15 15).panel.settled ∧ (dotAt 15 15).params.distinctCommands ∧ (dotAt 15 15).params.offsetsFit ∧
    (drawnColumn (dotAt 15 15)).toNat + (dotAt 15 15).fontW.toNat ≤ (dotAt 15 15).params.columnCount.toNat ∧
    (drawnLine (dotAt 15 15)).toNat + (dotAt 15 15).fontH.toNat ≤ (dotAt 15 15).params.lineCount.toNat := by decide
/-- "A" and a control character, at the top of memory. -/
theorem test_witness_PutStringCompletes :
    { dotAt 0 0 with mem := [(0xFFE, 0x41)] }.accepting ∧ fontLegal { dotAt 0 0 with mem := [(0xFFE, 0x41)] } ∧
    (0xFFE : Word).toNat + min (2 : Half).toNat (textMaxChars Config.launchParams.textMax) = Config.launchParams.memSize ∧
    (List.range (min (2 : Half).toNat (textMaxChars Config.launchParams.textMax))).map
      (fun k => readByte [(0xFFE, 0x41)] ((0xFFE : Word).toNat + k)) = [0x41, 0] ∧
    (∀ ch ∈ ([0x41, 0] : List Byte), printable ch = true → glyphInMemory { dotAt 0 0 with mem := [(0xFFE, 0x41)] } ch) ∧
    { dotAt 0 0 with mem := [(0xFFE, 0x41)] }.quiet (([0x41, 0] : List Byte).countP printable * (11 + 2 * (1 * 1))) ∧
    ∃ q, observeAll Config.launchParams
      (effectTokens (effectsOf (.putString 0xFFE 2) { dotAt 0 0 with mem := [(0xFFE, 0x41)] })) Panel.initial = .ok q := by
  refine ⟨by decide, by decide, by decide, by decide, by decide, by decide, ⟨_, rfl⟩⟩
theorem test_witness_PutStringIsPutCharsInTurn :
    { dotAt 0 0 with mem := [(0xFFE, 0x41)] }.accepting ∧
    { dotAt 0 0 with mem := [(0xFFE, 0x41)] }.quiet 0 ∧ fontLegal { dotAt 0 0 with mem := [(0xFFE, 0x41)] } ∧
    (putCharsInTurn [0x41, 0] { dotAt 0 0 with mem := [(0xFFE, 0x41)] }).map
      (fun t => (decide t.goodFinal, t.fault, t.curX, t.trace.length)) = some (true, false, 1, 13) := by decide
/-- A carriage return and then "A" as two PUT_CHARs: the first completes, the second ends so, and PUT_STRING in the same
state. -/
def crThenA (s : State) (verdict : Option Verdict) (fault : Bool) : Bool :=
  match putCharsInTurn [0x0D] s with
  | none => false
  | some t => decide t.goodFinal && !t.fault && match next? (exec (.putChar 0x41) t) with
    | none => false
    | some u => !u.busy && decide (u.undef = verdict) && u.fault == fault &&
        decide (next? (exec (.putString 0x300 2) s) = some u)

/-- The second ends in its own verdict, in the observer's, in a transport failure. -/
theorem test_witness_PutStringIsPutCharsInTurn_stops :
    crThenA { dotAt 15 0 with mem := cells 0x300 [0x0D, 0x41], fontBase := 0x1000 } (some .memRange) false = true ∧
    crThenA { dotAt 15 0 with mem := cells 0x300 [0x0D, 0x41], fontW := 2, params := sized 1 16 0x1000 }
      (some .panelWindow) false = true ∧
    crThenA { dotAt 15 0 with mem := cells 0x300 [0x0D, 0x41], draws := [.answer .fail] } none true = true := by decide
/-- The last entry in memory, in both modes. -/
theorem test_witness_DrawCjkOffersTheCell :
    { State.reset with cjkBase := 0xFE0, cjkCount := 1 }.accepting ∧ (0 : Half).toNat < (1 : Half).toNat ∧
    (0xFE0 : Word).toNat + 32 * (0 : Half).toNat + 32 = Config.launchParams.memSize ∧
    (cjkState .black).params.cjkBg = .black ∧ (cjkState .transparent).params.cjkBg = .transparent ∧
    (tokensOf (.drawCjk 4 5 0 7) (cjkState .black)).map (·.length) = some 523 ∧
    (next? (exec (.drawCjk 4 5 0 7) (cjkState .black))).map (·.undef) = some none ∧
    (next? (exec (.drawCjk 4 5 0 7) (cjkState .transparent))).map (·.undef) = some none := by decide +kernel
theorem test_witness_DrawCjkShowsTheGlyph :
    (cjkState .black).accepting ∧ (0 : Half).toNat < (cjkState .black).cjkCount.toNat ∧
    (cjkState .black).cjkBase.toNat + 32 * (0 : Half).toNat + 32 ≤ (cjkState .black).params.memSize ∧
    (cjkState .transparent).quiet 3328 ∧ (cjkState .transparent).panel.settled ∧
    (cjkState .transparent).params.distinctCommands ∧ (cjkState .transparent).params.offsetsFit ∧
    (16 : Half).toNat + 16 = (cjkState .transparent).params.columnCount.toNat := by decide
theorem test_witness_ObserverReceivesRanges :
    Config.launchParams.distinctCommands ∧ Panel.initial.settled ∧ (inWindow 0 0 0 0 0 1 1).settled := by decide
/-- LOST; a stream one pixel short, a stream with half a pixel, idle, inside a range, and a full stream. -/
theorem test_witness_ObserverRejectsBadSequences :
    { Panel.initial with lost := true }.lost = true ∧ Panel.initial.lost = false ∧
    (inWindow 0 0 1 0 1 0 1).count < windowSize (inWindow 0 0 1 0 1 0 1) ∧
    { inWindow 0 0 0 0 0 1 1 with hi := some 3 }.hi ≠ none ∧ Panel.initial.mode = .idle ∧
    { Panel.initial with mode := .row [1, 2, 3] }.mode = .row [1, 2, 3] ∧
    windowSize (inWindow 0 0 0 0 0 1 1) ≤ (inWindow 0 0 0 0 0 1 1).count ∧
    (0x00 : Byte) ≠ Config.launchParams.cmdCaset ∧ (0x00 : Byte) ≠ Config.launchParams.cmdRaset ∧
    (0x00 : Byte) ≠ Config.launchParams.cmdRamwr := by decide
/-- V-O1's stream and command; a half pixel; a string whose first printable character is its second; a CJK bit. -/
theorem test_witness_ObserverRejectsBadSequences_commands :
    { meeting [.answer .ok, .pause] with panel := inWindow 0 0 1 0 1 0 1 }.accepting ∧
    { meeting [.answer .ok, .pause] with panel := inWindow 0 0 1 0 1 0 1 }.answersOk 1 ∧
    opensWindow State.reset (.drawPixel 3 3 1) ∧ opensWindow (dotAt 0 0) (.putChar 0x41) ∧
    opensWindow { dotAt 0 0 with mem := cells 0x300 [0x0A, 0x41] } (.putString 0x300 2) ∧
    opensWindow { State.reset with cjkCount := 1, mem := [(31, 0x80)], params := { Config.launchParams with cjkBg := .transparent } }
      (.drawCjk 0 0 0 1) ∧
    (inWindow 0 0 1 0 1 0 1).lost = false ∧ (inWindow 0 0 1 0 1 0 1).mode = .stream ∧
    (inWindow 0 0 1 0 1 0 1).count < windowSize (inWindow 0 0 1 0 1 0 1) := by
  refine ⟨by decide, by decide, trivial, ?_, ?_, ?_, rfl, rfl, by decide⟩
  · exact ⟨by decide, by decide, by decide, by decide⟩
  · exact ⟨by decide, by decide, 0x41, by decide, by decide⟩
  · exact ⟨by decide, by decide, .inr ⟨15, 15, by decide, by decide, by decide⟩⟩
theorem test_witness_FilledWindowShowsItsPixels :
    Panel.initial.settled ∧ Config.launchParams.distinctCommands ∧ Config.launchParams.offsetsFit ∧
    (15 : Half).toNat < Config.launchParams.columnCount.toNat ∧
    ([1, 2] : List Half).length = ((15 : Half).toNat - (14 : Half).toNat + 1) * ((15 : Half).toNat - (15 : Half).toNat + 1) := by
  decide
/-- For the frames and the whole-machine statements: a command answers a next state, and so does a step. -/
theorem test_witness_exec_and_step :
    (next? (exec (.pack565 1 2 3) State.reset)).isSome = true ∧ (next? (step State.reset)).isSome = true ∧
    (next? (step (facing (.store 0xFFF 7)))).map (·.mem) = some [(0xFFF, 7)] ∧
    Memory.wf (facing (.store 0xFFF 7)).mem = true := by decide
/-- READY raised while idle, while a token is never answered, and while a command waits. -/
theorem test_witness_ParametersHoldForTheRun :
    (facing .raiseReady).undef = none ∧ (facing .raiseReady).busy = false ∧ (facing .raiseReady).host = .raiseReady :: [] ∧
    ([none, some ⟨.command .nop, [], .transport⟩, some ⟨.command .nop, [], .host⟩].map fun w =>
      (next? (step { facing .raiseReady with ready := false, busy := w.isSome, work := w })).map fun t => (t.ready, t.busy)) =
      [some (true, false), some (true, true), some (true, false)] := by decide
/-- The last byte of memory. -/
theorem test_witness_MemoryChangesOnlyByTheHost :
    Memory.wf (facing (.store 0xFFF 7)).mem = true ∧ (facing (.store 0xFFF 7)).undef = none ∧
    (facing (.store 0xFFF 7)).busy = false ∧ (facing (.store 0xFFF 7)).host = .store 0xFFF 7 :: [] ∧
    (0xFFF : Word).toNat + 1 = State.reset.params.memSize := by decide
/-- A command that waits between its tokens, and a reserved opcode that waits before its fault. -/
theorem test_witness_CommandsWriteOnlyTheirRegisters :
    { State.reset with busy := true, work := some ⟨.command (.putChar 0x0A), [.write (.curX 0)], .host⟩ }.inv = true ∧
    (next? (step { State.reset with
      busy := true, work := some ⟨.command (.putChar 0x0A), [.write (.curX 0)], .host⟩ })).isSome = true ∧
    { State.reset with busy := true, work := some ⟨.reserved 7, [.illegalCmd], .host⟩ }.inv = true ∧
    (next? (step { State.reset with busy := true, work := some ⟨.reserved 7, [.illegalCmd], .host⟩ })).map (·.faults) =
      some (true, .illegalCmd) ∧
    { State.reset with busy := true, work := some ⟨.command .nop, [.illegalCmd], .host⟩ }.inv = false := by decide
theorem test_witness_LaunchMeetsTheInvariant :
    Config.launchParams.ok = true ∧ Memory.wf [(0xFFF, 7)] = true ∧
    (∀ c ∈ ([(0xFFF, 7)] : List Host.Cell), c.1 < Config.launchParams.memSize) ∧ State.reset.inv = true := by decide
/-- The invariant in a state no run from reset is needed for: mid-window, mid-command. -/
theorem test_witness_StepKeepsTheInvariant :
    { State.reset with
      panel := inWindow 0 0 1 1 1 0 1, busy := true, work := some ⟨.command .nop, [], .host⟩, mem := [(3, 9)] }.inv = true ∧
    (next? (step { State.reset with
      panel := inWindow 0 0 1 1 1 0 1, busy := true, work := some ⟨.command .nop, [], .host⟩, mem := [(3, 9)] })).isSome = true := by
  decide

end Sys2Proof.Tests
end

section
/-! The invariant: what it says of the observer and of the machine, and that every operation of a step keeps it. -/

namespace Sys2Proof.Machine

/-- The observer's invariant as propositions. -/
theorem Panel.inv_iff (p : Params) (q : Panel) :
    q.inv p = true ↔ Image.wf q.image = true ∧ (∀ e ∈ q.image, p.onPanel e.1) ∧ q.modeOk p = true := by
  simp only [Panel.inv, Bool.and_eq_true, List.all_eq_true, decide_eq_true_eq, and_assoc]

/-- An observer that only changes its mode keeps the invariant where the new mode makes sense. -/
theorem Panel.inv_of_image_eq {p : Params} {q q' : Panel} (h : q.inv p = true) (hi : q'.image = q.image)
    (hm : q'.modeOk p = true) : q'.inv p = true := by
  rw [Panel.inv_iff] at h ⊢
  rw [hi]
  exact ⟨h.1, h.2.1, hm⟩

/-- The range check of begin-memory-write as inequalities (20_memory.md R66). -/
theorem windowInRange_iff (p : Params) (cs ce rs re : Half) :
    windowInRange p cs ce rs re = true ↔
      coord p.columnOffset ≤ coord cs ∧ coord cs ≤ coord ce ∧ coord ce ≤ coord p.columnOffset + coord p.columnCount - 1 ∧
      coord p.lineOffset ≤ coord rs ∧ coord rs ≤ coord re ∧ coord re ≤ coord p.lineOffset + coord p.lineCount - 1 := by
  simp only [windowInRange, Bool.and_eq_true, decide_eq_true_eq, and_assoc]

/-- An open stream, its window's corners named: the window is on the panel, the pointer in the window's columns and not above
it, and the count is the number of places before the pointer (20_memory.md R66, R67). -/
structure Panel.StreamIn (p : Params) (q : Panel) (cs ce rs re : Half) : Prop where
  cs_eq : q.cs = some cs
  ce_eq : q.ce = some ce
  rs_eq : q.rs = some rs
  re_eq : q.re = some re
  inRange : windowInRange p cs ce rs re = true
  left_le : coord cs ≤ q.px
  le_right : q.px ≤ coord ce
  top_le : coord rs ≤ q.py
  count_eq : q.count = (q.py - coord rs) * (coord ce - coord cs + 1) + (q.px - coord cs)
  count_nonneg : 0 ≤ q.count
  count_le : q.count ≤ (coord ce - coord cs + 1) * (coord re - coord rs + 1)

/-- A window that was set holds the product of its sides. -/
theorem windowSize_eq {q : Panel} {cs ce rs re : Half} (hcs : q.cs = some cs) (hce : q.ce = some ce) (hrs : q.rs = some rs)
    (hre : q.re = some re) : windowSize q = (coord ce - coord cs + 1) * (coord re - coord rs + 1) := by
  simp [windowSize, hcs, hce, hrs, hre]

/-- The model's check of an open stream is `Panel.StreamIn` for the corners the observer holds. -/
theorem Panel.streamOk_iff (p : Params) (q : Panel) :
    q.streamOk p = true ↔ ∃ cs ce rs re, q.StreamIn p cs ce rs re := by
  unfold Panel.streamOk
  split
  · rename_i cs ce rs re hcs hce hrs hre
    simp only [Bool.and_eq_true, decide_eq_true_eq, windowSize_eq hcs hce hrs hre]
    constructor
    · rintro ⟨⟨⟨⟨⟨⟨hr, hl⟩, hr'⟩, ht⟩, hc⟩, hn⟩, hle⟩
      exact ⟨cs, ce, rs, re, hcs, hce, hrs, hre, hr, hl, hr', ht, hc, hn, hle⟩
    · rintro ⟨cs', ce', rs', re', h⟩
      obtain rfl : cs = cs' := by simpa [hcs] using h.cs_eq
      obtain rfl : ce = ce' := by simpa [hce] using h.ce_eq
      obtain rfl : rs = rs' := by simpa [hrs] using h.rs_eq
      obtain rfl : re = re' := by simpa [hre] using h.re_eq
      exact ⟨⟨⟨⟨⟨⟨h.inRange, h.left_le⟩, h.le_right⟩, h.top_le⟩, h.count_eq⟩, h.count_nonneg⟩, h.count_le⟩
  · rename_i hnone
    simp only [Bool.false_eq_true, false_iff]
    rintro ⟨cs, ce, rs, re, h⟩
    exact hnone cs ce rs re h.cs_eq h.ce_eq h.rs_eq h.re_eq

/-- In the mode of an open stream the mode makes sense where the stream does. -/
theorem Panel.modeOk_stream (p : Params) {q : Panel} (hm : q.mode = .stream) : q.modeOk p = q.streamOk p := by
  simp [Panel.modeOk, hm]

/-- What begin-memory-write does where it names no verdict (20_memory.md R66). -/
theorem beginStream_ok {p : Params} {q q' : Panel} (h : beginStream p q = .ok q') :
    ∃ cs ce rs re, q.cs = some cs ∧ q.ce = some ce ∧ q.rs = some rs ∧ q.re = some re ∧
      windowInRange p cs ce rs re = true ∧
      q' = { q with px := coord cs, py := coord rs, count := 0, hi := none, mode := .stream } := by
  unfold beginStream at h
  split at h
  · rename_i cs ce rs re hcs hce hrs hre
    split at h
    · rename_i hr
      cases h
      exact ⟨cs, ce, rs, re, hcs, hce, hrs, hre, hr, rfl⟩
    · cases h
  · cases h

/-- Begin-memory-write opens an empty stream, its pointer at the window's first place. -/
theorem beginStream_inv {p : Params} {q q' : Panel} (h : q.inv p = true) (hb : beginStream p q = .ok q') :
    q'.inv p = true := by
  obtain ⟨cs, ce, rs, re, hcs, hce, hrs, hre, hr, rfl⟩ := beginStream_ok hb
  obtain ⟨-, hcol, -, -, hrow, -⟩ := (windowInRange_iff p cs ce rs re).1 hr
  have hsize : 0 ≤ (coord ce - coord cs + 1) * (coord re - coord rs + 1) := mul_nonneg (by omega) (by omega)
  exact Panel.inv_of_image_eq h rfl ((Panel.streamOk_iff p _).2
    ⟨cs, ce, rs, re, hcs, hce, hrs, hre, hr, le_refl _, hcol, le_refl _, by simp, le_refl _, hsize⟩)

/-- A command byte keeps the observer's invariant (20_memory.md R64-R66). -/
theorem observeCommand_inv {p : Params} {b : Byte} {q q' : Panel} (h : q.inv p = true)
    (ho : observeCommand p b q = .ok q') : q'.inv p = true := by
  unfold observeCommand at ho
  split at ho
  · cases ho; exact Panel.inv_of_image_eq h rfl rfl
  · split at ho
    · cases ho; exact Panel.inv_of_image_eq h rfl rfl
    · split at ho
      · exact beginStream_inv h ho
      · cases ho

/-- A CMD token keeps the observer's invariant (20_memory.md R64-R66, R68, R69). -/
theorem observeCmd_inv {p : Params} {b : Byte} {q q' : Panel} (h : q.inv p = true) (ho : observeCmd p b q = .ok q') :
    q'.inv p = true := by
  unfold observeCmd at ho
  split at ho
  · exact observeCommand_inv h ho
  · cases ho
  · cases ho
  · split at ho
    · cases ho
    · exact observeCommand_inv h ho

/-- The write pointer of a stream that is not full lies in the window's rows. -/
theorem Panel.StreamIn.row_le {p : Params} {q : Panel} {cs ce rs re : Half} (h : q.StreamIn p cs ce rs re)
    (hlt : q.count < (coord ce - coord cs + 1) * (coord re - coord rs + 1)) : q.py ≤ coord re := by
  have hl := h.left_le
  have hr := h.le_right
  have hc := h.count_eq
  by_contra hbelow
  have hfull : (coord re - coord rs + 1) * (coord ce - coord cs + 1) ≤ (q.py - coord rs) * (coord ce - coord cs + 1) :=
    mul_le_mul_of_nonneg_right (by omega) (by omega)
  rw [mul_comm (coord re - coord rs + 1)] at hfull
  omega

/-- The place of the next pixel of a stream that is not full is on the panel. -/
theorem Panel.StreamIn.pointer_onPanel {p : Params} {q : Panel} {cs ce rs re : Half} (h : q.StreamIn p cs ce rs re)
    (hlt : q.count < (coord ce - coord cs + 1) * (coord re - coord rs + 1)) :
    p.onPanel (q.px - coord p.columnOffset, q.py - coord p.lineOffset) := by
  obtain ⟨hcol, -, hcol', hline, -, hline'⟩ := (windowInRange_iff p cs ce rs re).1 h.inRange
  have hl := h.left_le
  have hr := h.le_right
  have ht := h.top_le
  have hb := h.row_le hlt
  refine ⟨?_, ?_, ?_, ?_⟩ <;> simp only <;> omega

/-- After one more pixel the advanced pointer is where the count leads (20_memory.md R67). -/
theorem Panel.StreamIn.advance {p : Params} {q : Panel} {cs ce rs re : Half} (h : q.StreamIn p cs ce rs re)
    (hlt : q.count < (coord ce - coord cs + 1) * (coord re - coord rs + 1)) (image : List Pixel) (hi : Option Byte) :
    Panel.StreamIn p { q with
      image := image, count := q.count + 1, hi := hi, px := (advancePointer q).1, py := (advancePointer q).2 } cs ce rs re := by
  obtain ⟨hcs, hce, hrs, hre, hr, hl, hr', ht, hc, hn, -⟩ := h
  by_cases hlast : q.px + 1 > coord ce
  · have hptr : advancePointer q = (coord cs, q.py + 1) := by simp [advancePointer, hcs, hce, hlast]
    have hrow : (q.py + 1 - coord rs) * (coord ce - coord cs + 1) =
        (q.py - coord rs) * (coord ce - coord cs + 1) + (coord ce - coord cs + 1) := by ring
    refine ⟨hcs, hce, hrs, hre, hr, ?_, ?_, ?_, ?_, ?_, hlt⟩ <;> simp only [hptr, hrow] <;> omega
  · have hptr : advancePointer q = (q.px + 1, q.py) := by simp [advancePointer, hce, hlast]
    refine ⟨hcs, hce, hrs, hre, hr, ?_, ?_, ?_, ?_, ?_, hlt⟩ <;> simp only [hptr] <;> omega

/-- A pixel's second byte keeps the observer's invariant. -/
theorem writePanelPixel_inv {p : Params} {hi lo : Byte} {q q' : Panel} (h : q.inv p = true) (hm : q.mode = .stream)
    (ho : writePanelPixel p hi lo q = .ok q') : q'.inv p = true := by
  obtain ⟨hwf, hon, hmode⟩ := (Panel.inv_iff p q).1 h
  rw [Panel.modeOk_stream p hm] at hmode
  obtain ⟨cs, ce, rs, re, hs⟩ := (Panel.streamOk_iff p q).1 hmode
  unfold writePanelPixel at ho
  split at ho
  · cases ho
  · rename_i hfull
    cases ho
    have hlt : q.count < (coord ce - coord cs + 1) * (coord re - coord rs + 1) := by
      rw [windowSize_eq hs.cs_eq hs.ce_eq hs.rs_eq hs.re_eq] at hfull
      exact lt_of_le_of_ne hs.count_le hfull
    refine (Panel.inv_iff p _).2 ⟨imageSet_wf _ _ _ hwf, fun e he => ?_, ?_⟩
    · rcases mem_imageSet he with he | rfl
      · exact hon e he
      · exact hs.pointer_onPanel hlt
    · rw [Panel.modeOk_stream p (by exact hm), Panel.streamOk_iff]
      exact ⟨cs, ce, rs, re, hs.advance hlt _ none⟩

/-- A range byte that is not the fourth leaves fewer than four received (20_memory.md R63). -/
theorem length_append_lt_four {got : List Byte} (b : Byte) (h : got.length < 4) (hne : ∀ b0 b1 b2, got ≠ [b0, b1, b2]) :
    (got ++ [b]).length < 4 := by
  have hthree : got.length ≠ 3 := fun h3 => by
    obtain ⟨b0, b1, b2, hgot⟩ := List.length_eq_three.1 h3
    exact hne b0 b1 b2 hgot
  simp only [List.length_append, List.length_singleton]
  omega

/-- A DATA token keeps the observer's invariant (20_memory.md R64, R65, R67). -/
theorem observeData_inv {p : Params} {b : Byte} {q q' : Panel} (h : q.inv p = true) (ho : observeData p b q = .ok q') :
    q'.inv p = true := by
  obtain ⟨-, -, hmode⟩ := (Panel.inv_iff p q).1 h
  unfold observeData at ho
  split at ho
  · cases ho
  · cases ho; exact Panel.inv_of_image_eq h rfl rfl
  · rename_i got hne hm
    cases ho
    have hlen : got.length < 4 := by simpa [Panel.modeOk, hm] using hmode
    exact Panel.inv_of_image_eq h rfl (decide_eq_true (length_append_lt_four b hlen hne))
  · cases ho; exact Panel.inv_of_image_eq h rfl rfl
  · rename_i got hne hm
    cases ho
    have hlen : got.length < 4 := by simpa [Panel.modeOk, hm] using hmode
    exact Panel.inv_of_image_eq h rfl (decide_eq_true (length_append_lt_four b hlen hne))
  · rename_i hm
    split at ho
    · cases ho
      rw [Panel.modeOk_stream p hm] at hmode
      exact Panel.inv_of_image_eq h rfl ((Panel.modeOk_stream p (by exact hm)).trans hmode)
    · exact writePanelPixel_inv h hm ho

/-- An accepted token keeps the observer's invariant. -/
theorem observe_inv {p : Params} {t : Token} {q q' : Panel} (h : q.inv p = true) (ho : observe p t q = .ok q') :
    q'.inv p = true := by
  unfold observe at ho
  split at ho
  · cases ho; exact h
  · split at ho
    · exact observeCmd_inv h ho
    · exact observeData_inv h ho

/-- What of the invariant speaks of the machine whatever frame is in progress: parameters, memory, fault registers, observer. -/
structure State.Sound (s : State) : Prop where
  params_ok : s.params.ok = true
  mem_wf : Memory.wf s.mem = true
  mem_below : ∀ c ∈ s.mem, c.1 < s.params.memSize
  fault_iff : s.fault = false ↔ s.faultCode = .none
  panel_inv : s.panel.inv s.params = true

/-- The invariant is soundness, BUSY exactly while a frame is in progress, and that frame's effects its own. -/
theorem State.inv_iff (s : State) :
    s.inv = true ↔ s.Sound ∧ s.busy = s.work.isSome ∧ ∀ w, s.work = some w → ∀ e ∈ w.rest, w.frame.mayDo e = true := by
  have hwork : s.work.all Work.inv = true ↔ ∀ w, s.work = some w → ∀ e ∈ w.rest, w.frame.mayDo e = true := by
    cases s.work <;> simp [Work.inv]
  simp only [State.inv, Bool.and_eq_true, List.all_eq_true, decide_eq_true_eq, hwork]
  constructor
  · rintro ⟨⟨⟨⟨⟨⟨hp, hm⟩, hb⟩, hf⟩, hbusy⟩, hw⟩, hq⟩
    exact ⟨⟨hp, hm, hb, hf, hq⟩, hbusy, hw⟩
  · rintro ⟨⟨hp, hm, hb, hf, hq⟩, hbusy, hw⟩
    exact ⟨⟨⟨⟨⟨⟨hp, hm⟩, hb⟩, hf⟩, hbusy⟩, hw⟩, hq⟩

/-- With no frame in progress the invariant is soundness. -/
theorem State.Sound.inv_of_idle {s : State} (h : s.Sound) (hb : s.busy = false) (hw : s.work = none) : s.inv = true :=
  (State.inv_iff s).2 ⟨h, by rw [hb, hw]; rfl, fun w h => by simp [hw] at h⟩

/-- With a frame in progress the invariant is soundness and that the effects to come are the frame's own. -/
theorem State.Sound.inv_of_busy {s : State} {w : Work} (h : s.Sound) (hb : s.busy = true) (hw : s.work = some w)
    (hrest : ∀ e ∈ w.rest, w.frame.mayDo e = true) : s.inv = true :=
  (State.inv_iff s).2 ⟨h, by rw [hb, hw]; rfl, fun w' h' => by
    obtain rfl : w = w' := by simpa [hw] using h'
    exact hrest⟩

/-- Soundness carries over where parameters, memory and fault registers stay and the observer's invariant holds. -/
theorem State.Sound.of_eq {s t : State} (h : s.Sound) (hp : t.params = s.params) (hm : t.mem = s.mem)
    (hf : t.faults = s.faults) (hq : t.panel.inv s.params = true) : t.Sound := by
  obtain ⟨hfault, hcode⟩ := Prod.mk.inj hf
  refine ⟨?_, ?_, ?_, ?_, ?_⟩
  · rw [hp]; exact h.params_ok
  · rw [hm]; exact h.mem_wf
  · rw [hm, hp]; exact h.mem_below
  · rw [hfault, hcode]; exact h.fault_iff
  · rw [hp]; exact hq

theorem State.Sound.record {s : State} (h : s.Sound) (t : Token) (a : Answer) : (record t a s).Sound :=
  h.of_eq rfl rfl rfl h.panel_inv

theorem State.Sound.dropDraw {s : State} (h : s.Sound) : (dropDraw s).Sound := h.of_eq rfl rfl rfl h.panel_inv

theorem State.Sound.losePanel {s : State} (h : s.Sound) : (losePanel s).Sound := h.of_eq rfl rfl rfl h.panel_inv

theorem State.Sound.writeRegister {s : State} (h : s.Sound) (w : RegWrite) : (writeRegister w s).Sound :=
  h.of_eq (by simp) (by simp) (by simp [State.faults]) (by simpa using h.panel_inv)

/-- A token the observer accepts keeps soundness. -/
theorem State.Sound.showPanel {s : State} (h : s.Sound) {t : Token} {q : Panel} (ho : observe s.params t s.panel = .ok q) :
    (showPanel q s).Sound := h.of_eq rfl rfl rfl (observe_inv h.panel_inv ho)

/-- The end of a frame's execution leaves a sound machine in the invariant. -/
theorem State.Sound.endCommand_inv {s : State} (h : s.Sound) : (endCommand s).inv = true :=
  (h.of_eq rfl rfl rfl h.panel_inv : (endCommand s).Sound).inv_of_idle rfl rfl

/-- A verdict leaves a sound machine in the invariant. -/
theorem State.Sound.setUndef_inv {s : State} (h : s.Sound) (r : Verdict) : (setUndef r s).inv = true :=
  (h.of_eq rfl rfl rfl h.panel_inv : (setUndef r s).Sound).inv_of_idle rfl rfl

/-- Taking a fault leaves a sound machine in the invariant: FAULT and FAULT_CODE rise together (60_exceptions.md R241). -/
theorem State.Sound.raiseFault_inv {s : State} (h : s.Sound) {code : FaultCode} (hc : code ≠ .none) :
    (raiseFault code s).inv = true := by
  have hiff := h.fault_iff
  have hfault : (raiseFault code s).fault = false ↔ (raiseFault code s).faultCode = .none := by
    cases hf : s.fault <;> simp_all
  exact (⟨h.params_ok, h.mem_wf, h.mem_below, hfault, h.panel_inv⟩ : (raiseFault code s).Sound).inv_of_idle rfl rfl

/-- Reset leaves a sound machine in the invariant: it clears FAULT and FAULT_CODE together (70 R270). -/
theorem State.Sound.resetBlock_inv {s : State} (h : s.Sound) : (resetBlock s).inv = true :=
  (⟨h.params_ok, h.mem_wf, h.mem_below, by simp, h.panel_inv⟩ : (resetBlock s).Sound).inv_of_idle rfl rfl

/-- A frame that waits with only effects of its own to come leaves a sound machine in the invariant. -/
theorem State.Sound.suspend_inv {s : State} (h : s.Sound) {f : PortFrame} {es : List Effect} (w : Waiting)
    (hown : ∀ e ∈ es, f.mayDo e = true) : (suspend f es w s).inv = true :=
  (h.of_eq rfl rfl rfl h.panel_inv : (suspend f es w s).Sound).inv_of_busy rfl rfl hown

/-- A frame's execution that starts on a sound machine ends or waits in the invariant: its own effects are all it has left. -/
theorem runEffects_inv (f : PortFrame) (es : List Effect) (hown : ∀ e ∈ es, f.mayDo e = true) (s : State) (h : s.Sound) :
    (runEffects f es s).inv = true :=
  runEffects_induction (P := State.Sound) (Q := fun t => t.inv = true) f es
    (hwrite := fun w _ _ ht => ht.writeRegister w)
    (hok := fun t _ _ _ ho hs => (hs.record t .ok).showPanel ho)
    (hend := fun _ ht => ht.endCommand_inv)
    (hverdict := fun r _ ht => ht.setUndef_inv r)
    (hillegal := fun _ _ ht => ht.raiseFault_inv (by decide))
    (hobs := fun t r _ hs => (hs.record t .ok).setUndef_inv r)
    (hfail := fun t _ hs => (hs.record t .fail).losePanel.raiseFault_inv (by decide))
    (hnever := fun _ t _ hsuffix hs => (hs.record t .never).suspend_inv _ fun e he => hown e (hsuffix.subset he))
    (hpause := fun _ _ hsuffix hs => hs.dropDraw.suspend_inv _ fun e he => hown e (hsuffix.subset he))
    s h

/-- What presenting bytes at the idle port can do: drop the move, or run a frame's own effects with BUSY = 1 (30_encoding.md
R84, R86, R88; 60_exceptions.md R249). -/
theorem takeFrame_cases {bytes : List Byte} {moves : List HostMove} {s t : State}
    (h : takeFrame exec bytes moves s = .next t) :
    t = withHost moves s ∨ ∃ f es left, (∀ e ∈ es, PortFrame.mayDo f e = true) ∧
      t = runEffects f es { withHost left s with busy := true } := by
  unfold takeFrame at h
  split at h
  · rename_i i left _
    rw [exec_eq] at h
    obtain ⟨-, -, rfl⟩ := accept_cases h
    exact .inr ⟨_, _, _, dispatchEffects_own _ (effectsOf_own i _), rfl⟩
  · obtain ⟨-, -, rfl⟩ := accept_cases h
    exact .inr ⟨_, _, _, dispatchEffects_own _ (by simp [PortFrame.mayDo, PortFrame.asks]), rfl⟩
  · cases h; exact .inl rfl

/-- A resumed execution ends or waits in the invariant. -/
theorem resume_inv {s : State} (h : s.inv = true) : (resume s).inv = true := by
  obtain ⟨hs, -, hown⟩ := (State.inv_iff s).1 h
  unfold resume
  split
  · rename_i w hw
    exact runEffects_inv _ _ (hown w hw) s hs
  · exact hs.endCommand_inv

/-- Settles O60, by the cases of a step: each is an operation that keeps the invariant. -/
theorem stepKeepsTheInvariant : Obligations.StepKeepsTheInvariant := by
  intro s t h hstep
  obtain ⟨hs, hwork, hown⟩ := (State.inv_iff s).1 h
  have read : ∀ n moves, (portRead n (withHost moves s)).inv = true := fun n moves => h
  have ready : ∀ moves, (raiseReady (withHost moves s)).inv = true := fun moves => h
  obtain ⟨-, hcases⟩ := step_cases hstep
  rcases hcases with ⟨-, -, rfl⟩ | ⟨-, bytes, moves, -, htake⟩ | ⟨-, a, v, moves, -, ha, rfl⟩ |
    ⟨n, moves, -, rfl | rfl⟩ | ⟨moves, -, rfl | rfl⟩ | ⟨moves, -, rfl⟩ | ⟨-, rfl⟩
  · exact h
  · rcases takeFrame_cases htake with rfl | ⟨f, es, left, hown, rfl⟩
    · exact h
    · exact runEffects_inv f es hown _ (hs.of_eq rfl rfl rfl hs.panel_inv)
  · refine (State.inv_iff _).2
      ⟨⟨hs.params_ok, writeByte_wf _ _ _ hs.mem_wf, fun c hc => ?_, hs.fault_iff, hs.panel_inv⟩, hwork, hown⟩
    rcases mem_writeByte hc with hc | hc
    · exact hs.mem_below c hc
    · rw [hc]; exact ha
  · exact read n moves
  · exact resume_inv (read n moves)
  · exact ready moves
  · exact resume_inv (ready moves)
  · exact (hs.of_eq rfl rfl rfl hs.panel_inv : (withHost moves s).Sound).resetBlock_inv
  · exact resume_inv h

/-- Settles O59: the launched machine is sound and idle. -/
theorem launchMeetsTheInvariant : Obligations.LaunchMeetsTheInvariant := by
  have launched : ∀ (p : Params) (ready : Bool) (mem : List Host.Cell) (draws : List Draw) (host : List HostMove),
      p.ok = true → Memory.wf mem = true → (∀ c ∈ mem, c.1 < p.memSize) →
      (State.launch p ready mem draws host).inv = true := fun p ready mem draws host hp hm hb =>
    (⟨hp, hm, hb, by simp [State.launch], rfl⟩ : (State.launch p ready mem draws host).Sound).inv_of_idle rfl rfl
  exact ⟨launched, launched _ _ _ _ _ (by decide) rfl (by simp)⟩

end Sys2Proof.Machine
end

section
/-! Runs of effects up to a verdict, and completion (00_scope.md R11, 20_memory.md R57, R58, 60_exceptions.md R246, R249). -/

namespace Sys2Proof.Machine

/-- A command up to the end of its effects `done`: their writes made, their tokens delivered, BUSY = 1, no move of the host
there, and the effects `todo` still to run. -/
theorem exec_runs {i : Instr} {s : State} {done todo : List Effect} {q : Panel} (hs : s.accepting)
    (he : effectsOf i s = done ++ todo) (hv : ∀ r, Effect.verdict r ∉ done) (hq : s.quiet (effectTokens done).length)
    (ho : observeAll s.params (effectTokens done) s.panel = .ok q) :
    exec i s = .next (runEffects (.command i) todo
      { (applyWrites done s).delivered (effectTokens done) q with busy := true }) ∧
    State.quiet { (applyWrites done s).delivered (effectTokens done) q with busy := true } 0 := by
  have hi : Effect.illegalCmd ∉ done := fun h =>
    illegalCmd_not_mem_effectsOf i s (he ▸ List.mem_append_left todo h)
  obtain ⟨hrun, hquiet⟩ := runEffects_prefix (.command i) done todo { s with busy := true } q hv hi hq ho
  rw [applyWrites_busy] at hrun hquiet
  exact ⟨by rw [exec_accepting hs, he, hrun]; rfl, hquiet⟩

/-- Writes and delivered tokens leave an idle machine idle. -/
theorem idle_delivered {s : State} (h : s.idle) (es : List Effect) (ts : List Token) (q : Panel) :
    ((applyWrites es s).delivered ts q).idle := by
  obtain ⟨hu, hb, hw⟩ := h
  obtain ⟨hbusy, hwork, -, -, -, -, -, hundef, -⟩ := applyWrites_keep es s
  exact ⟨hundef.trans hu, hbusy.trans hb, hwork.trans hw⟩

/-- A verdict on a machine that was idle before the command sets UNDEF and changes nothing else (60_exceptions.md R246). -/
theorem setUndef_idle {s : State} (h : s.idle) (r : Verdict) :
    setUndef r { s with busy := true } = { s with undef := some r } := by
  obtain ⟨hu, hb, hw⟩ := h
  show { s with undef := if s.undef.isSome then s.undef else some r, busy := false, work := none } = _
  rw [hu, ← hb, ← hw]
  rfl

/-- One more token delivered. -/
theorem delivered_record (s : State) (ts : List Token) (t : Token) (q : Panel) :
    record t .ok (s.delivered ts q) = s.delivered (ts ++ [t]) q := by
  simp [State.delivered, record, List.tail_drop]

/-- A token the transport accepts and the observer rejects ends the command in the observer's verdict. -/
theorem runEffects_rejected {f : PortFrame} {t : Token} {es : List Effect} {s : State} {r : Verdict}
    (hd : nextDraw s = .answer .ok) (ho : observe s.params t s.panel = .error r) :
    runEffects f (.emit t :: es) s = setUndef r (record t .ok s) := by
  simp [runEffects, hd, ho]

/-- Where the next `n + 1` tokens are accepted, the first `n` are met quietly and the one after them is accepted. -/
theorem quiet_of_answersOk {s : State} {n : Nat} (h : s.answersOk (n + 1)) :
    s.quiet n ∧ (s.draws.drop n).headD (.answer .ok) = .answer .ok := by
  rw [State.answersOk, List.all_eq_true] at h
  have hn : ∀ d, s.draws[n]? = some d → d = .answer .ok := by
    intro d hd
    obtain ⟨hl, he⟩ := List.getElem?_eq_some_iff.1 hd
    have hmem : d ∈ s.draws.take (n + 1) := List.mem_take_iff_getElem.2 ⟨n, by omega, he⟩
    simpa using h d hmem
  refine ⟨⟨List.all_eq_true.2 fun d hd => h d (List.take_subset_take_left _ (Nat.le_succ n) hd), fun hp => ?_⟩, ?_⟩
  · cases hn _ hp
  · rw [List.headD_eq_head?_getD, List.head?_drop]
    cases hd : s.draws[n]? with
    | none => rfl
    | some d => exact hn d hd

/-- Settles O13: the effects up to the command's end or its first verdict are delivered; then the end, the command's own
verdict or the observer's leaves exactly what was done so far. -/
theorem commandsComplete : Obligations.CommandsComplete := by
  intro i s hs
  refine ⟨fun q hv hq ho => ?_, fun pre post r q he hv hq ho => ?_, fun pre post t r q he hv hq ho hr => ?_⟩
  · obtain ⟨hrun, hquiet⟩ := exec_runs hs (List.append_nil _).symm hv hq ho
    rw [hrun, runEffects_nil (quiet_draw hquiet), endCommand_idle (idle_delivered hs.1 _ _ q)]
  · obtain ⟨hrun, hquiet⟩ := exec_runs hs he hv hq ho
    rw [hrun, runEffects_verdict (quiet_draw hquiet), setUndef_idle (idle_delivered hs.1 _ _ q)]
  · obtain ⟨hquiet, hd⟩ := quiet_of_answersOk hq
    obtain ⟨hrun, -⟩ := exec_runs hs he hv hquiet ho
    obtain ⟨-, -, -, -, hdraws, hparams, -⟩ := applyWrites_keep pre s
    have hidle : (record t .ok ((applyWrites pre s).delivered (effectTokens pre) q)).idle :=
      idle_delivered hs.1 pre (effectTokens pre) q
    rw [hrun, runEffects_rejected (r := r) (by simpa [nextDraw, hdraws] using hd) (by simpa [hparams] using hr),
      ← delivered_record]
    exact congrArg Host.Outcome.next (setUndef_idle hidle r)

end Sys2Proof.Machine
end

section
/-! Waits: a pause of the transport's draws, and what the host may do there (20_memory.md R58, 70 R272, R274, R281). -/

namespace Sys2Proof.Machine

/-- A run does not depend on READY, the host's moves or the reads it made: it carries them along. -/
theorem runEffects_hostSide (f : PortFrame) (es : List Effect) (s : State) (ready : Bool) (host : List HostMove)
    (reads : List RegRead) (freeReads : Nat) :
    runEffects f es { s with ready := ready, host := host, reads := reads, freeReads := freeReads } =
      { runEffects f es s with ready := ready, host := host, reads := reads, freeReads := freeReads } := by
  induction es generalizing s with
  | nil =>
    simp only [runEffects, unlessPaused, nextDraw]
    split <;> rfl
  | cons e es ih =>
    cases e with
    | verdict r =>
      simp only [runEffects, unlessPaused, nextDraw]
      split <;> rfl
    | illegalCmd =>
      simp only [runEffects, unlessPaused, nextDraw]
      split <;> rfl
    | write w =>
      simp only [runEffects, unlessPaused, nextDraw]
      split
      · rfl
      · rw [← ih]
        cases w <;> rfl
    | emit t =>
      simp only [runEffects, nextDraw]
      split
      · split
        · exact ih (showPanel _ (record t .ok s))
        · rfl
      · rfl
      · rfl
      · rfl

/-- A run carries READY and the host's moves along. -/
theorem runEffects_ready_host (f : PortFrame) (es : List Effect) (s : State) (ready : Bool) (host : List HostMove) :
    runEffects f es { s with ready := ready, host := host } = { runEffects f es s with ready := ready, host := host } := by
  obtain ⟨-, -, -, -, hreads, hfree⟩ := runEffects_environment f es s
  have h := runEffects_hostSide f es s ready host s.reads s.freeReads
  rw [h, ← hreads, ← hfree]

/-- While the machine has not stopped and waits for the host, bring-up's move lands and the frame goes on (70 R272, R281). -/
theorem step_raiseReady_waiting {s : State} {moves : List HostMove} {w : Work} (hu : s.undef = none) (hb : s.busy = true)
    (hw : s.work = some w) (hwait : w.waiting = .host) (hh : s.host = .raiseReady :: moves) :
    step s = .next (runEffects w.frame w.rest (raiseReady (withHost moves s))) := by
  obtain ⟨f, es, wait⟩ := w
  obtain rfl : wait = .host := hwait
  simp [step, machineStep, hu, hb, hw, stepPaused, hh, resume]

/-- A step keeps the parameters, and READY once 1 (00_scope.md R7, 70 R272). -/
theorem step_keeps_params_ready {s t : State} (h : step s = .next t) :
    t.params = s.params ∧ (s.ready = true → t.ready = true) := by
  have resumed : ∀ u : State, (resume u).params = u.params ∧ (resume u).ready = u.ready := by
    intro u
    unfold resume
    split
    · rename_i w _
      obtain ⟨hp, -, hr, -⟩ := runEffects_environment w.frame w.rest u
      exact ⟨hp, hr⟩
    · exact ⟨rfl, rfl⟩
  obtain ⟨-, hcases⟩ := step_cases h
  rcases hcases with ⟨-, -, rfl⟩ | ⟨-, bytes, moves, -, htake⟩ | ⟨-, a, v, moves, -, -, rfl⟩ |
    ⟨n, moves, -, rfl | rfl⟩ | ⟨moves, -, rfl | rfl⟩ | ⟨moves, -, rfl⟩ | ⟨-, rfl⟩
  · exact ⟨rfl, id⟩
  · rcases takeFrame_cases htake with rfl | ⟨f, es, left, -, rfl⟩
    · exact ⟨rfl, id⟩
    · obtain ⟨hp, -, hr, -⟩ := runEffects_environment f es { withHost left s with busy := true }
      exact ⟨hp, fun h => hr.trans h⟩
  · exact ⟨rfl, id⟩
  · exact ⟨rfl, id⟩
  · simp [resumed]
  · exact ⟨rfl, fun _ => rfl⟩
  · simp [resumed]
  · exact ⟨rfl, id⟩
  · simp [resumed]

/-- Settles O57: by the cases of a step; and a run carries READY and the host's moves along. -/
theorem parametersHoldForTheRun : Obligations.ParametersHoldForTheRun := by
  refine ⟨fun s t h => step_keeps_params_ready h, fun s moves hu hh hidle => ?_, fun s moves w hu hh hb hw hwait => ?_⟩
  · have hready : raiseReady (withHost moves s) = { s with host := moves, ready := true } := rfl
    rw [← hready]
    rcases hidle with hb | ⟨⟨f, es, wait⟩, hw, hwait⟩
    · simp [step, machineStep, hu, hb, stepIdle, hh]
    · obtain rfl : wait = .transport := hwait
      cases hb : s.busy
      · simp [step, machineStep, hu, hb, stepIdle, hh]
      · simp [step, machineStep, hu, hb, hw, stepHung, hh]
  · refine ⟨runEffects w.frame w.rest { s with host := [] }, ?_, ?_⟩
    · obtain ⟨f, es, wait⟩ := w
      obtain rfl : wait = .host := hwait
      exact step_waiting (s := { s with host := [] }) hu hb hw rfl
    · rw [step_raiseReady_waiting hu hb hw hwait hh]
      exact congrArg Host.Outcome.next (runEffects_ready_host w.frame w.rest { s with host := [] } true moves)

/-- What the next draw is where accepted tokens lie before a pause. -/
theorem nextDraw_before_pause {s : State} {pre rest : List Draw} (hd : s.draws = pre ++ .pause :: rest)
    (hok : pre.all (· == .answer .ok) = true) :
    (pre = [] ∧ nextDraw s = .pause ∧ s.draws.tail = rest) ∨
    ∃ pre', pre = .answer .ok :: pre' ∧ pre'.all (· == .answer .ok) = true ∧ nextDraw s = .answer .ok ∧
      s.draws.tail = pre' ++ .pause :: rest := by
  cases pre with
  | nil => exact .inl ⟨rfl, by simp [nextDraw, hd], by simp [hd]⟩
  | cons d pre' =>
    obtain ⟨rfl, hok'⟩ : d = .answer .ok ∧ pre'.all (· == .answer .ok) = true := by simpa using hok
    exact .inr ⟨pre', rfl, hok', by simp [nextDraw, hd], by simp [hd]⟩

/-- A token the transport and the observer accept is delivered, and the run goes on. -/
theorem runEffects_accepted {f : PortFrame} {t : Token} {es : List Effect} {s : State} {q : Panel}
    (hd : nextDraw s = .answer .ok) (ho : observe s.params t s.panel = .ok q) :
    runEffects f (.emit t :: es) s = runEffects f es (showPanel q (record t .ok s)) := by
  simp [runEffects, hd, ho]

@[simp] theorem effectTokens_nil : effectTokens [] = [] := rfl

@[simp] theorem effectTokens_write (w : RegWrite) (es : List Effect) :
    effectTokens (.write w :: es) = effectTokens es := rfl

@[simp] theorem effectTokens_emit (t : Token) (es : List Effect) :
    effectTokens (.emit t :: es) = t :: effectTokens es := rfl

/-- A frame whose effects `before` offer exactly the tokens accepted before a pause waits there, those tokens offered (R58,
R281): whether the pause lands before one of `before`'s register writes or after all of them. -/
theorem runEffects_waits (f : PortFrame) (before after : List Effect) (s : State) (pre rest : List Draw) (q : Panel)
    (hv : ∀ r, Effect.verdict r ∉ before) (hi : Effect.illegalCmd ∉ before) (hd : s.draws = pre ++ .pause :: rest)
    (hok : pre.all (· == .answer .ok) = true) (hlen : (effectTokens before).length = pre.length)
    (ho : observeAll s.params (effectTokens before) s.panel = .ok q) :
    (runEffects f (before ++ after) s).busy = true ∧
    (runEffects f (before ++ after) s).trace = s.trace ++ (effectTokens before).map (Offer.mk · .ok) := by
  induction before generalizing s pre with
  | nil =>
    obtain rfl : pre = [] := List.length_eq_zero_iff.1 hlen.symm
    rw [runEffects_pause _ _ _ (by simp [nextDraw, hd])]
    simp
  | cons e before ih =>
    rcases nextDraw_before_pause hd hok with ⟨rfl, hnext, -⟩ | ⟨pre', rfl, hok', hnext, htail⟩
    · have hnone : effectTokens (e :: before) = [] := List.length_eq_zero_iff.1 hlen
      rw [runEffects_pause _ _ _ hnext, hnone]
      simp
    · have ih := ih (hv := fun r h => hv r (.tail _ h)) (hi := fun h => hi (.tail _ h))
      cases e with
      | verdict r => exact absurd (.head _) (hv r)
      | illegalCmd => exact absurd (.head _) hi
      | write w =>
        rw [effectTokens_write] at hlen ho ⊢
        rw [List.cons_append, runEffects_write (by simp [hnext])]
        simpa using ih (writeRegister w s) (.answer .ok :: pre') (by simpa using hd) hok hlen (by simpa using ho)
      | emit t =>
        rw [effectTokens_emit] at hlen ho ⊢
        rw [observeAll] at ho
        split at ho
        · rename_i q1 h1
          rw [List.cons_append, runEffects_accepted hnext h1]
          simpa using ih (showPanel q1 (record t .ok s)) pre' htail hok' (Nat.succ.inj hlen) (by simpa using ho)
        · cases ho

/-- A frame that waits for the host goes on, where no move lands, as if the pause had not been there (R281). -/
theorem runEffects_suspended (f : PortFrame) (es : List Effect) (s : State) (hb : s.busy = true) :
    runEffects f es (suspend f es .host (dropDraw s)) = runEffects f es { s with draws := s.draws.tail } := by
  rw [← runEffects_work f es { s with draws := s.draws.tail } (some ⟨f, es, .host⟩)]
  simp only [suspend, dropDraw, hb]

/-- At a pause a frame waits for the host, and it goes on from there as it would have run without the pause. -/
theorem runEffects_waited_here {f : PortFrame} {rest : List Draw} (es : List Effect) (s : State) (hb : s.busy = true)
    (hnext : nextDraw s = .pause) (htail : s.draws.tail = rest) :
    (runEffects f es s).undef = s.undef ∧ ∃ es', (runEffects f es s).work = some ⟨f, es', .host⟩ ∧
      runEffects f es { s with draws := rest } = runEffects f es' (runEffects f es s) := by
  rw [runEffects_pause f es s hnext]
  exact ⟨rfl, es, rfl, by rw [runEffects_suspended f es s hb, htail]⟩

/-- Where accepted tokens lie before a pause, a frame still in progress waits for the host, and it goes on from there as it
would have run without the pause (R281). -/
theorem runEffects_waited (f : PortFrame) (es : List Effect) (s : State) (pre rest : List Draw) (hb : s.busy = true)
    (hd : s.draws = pre ++ .pause :: rest) (hok : pre.all (· == .answer .ok) = true)
    (hu : (runEffects f es s).busy = true) :
    (runEffects f es s).undef = s.undef ∧ ∃ es', (runEffects f es s).work = some ⟨f, es', .host⟩ ∧
      runEffects f es { s with draws := pre ++ rest } = runEffects f es' (runEffects f es s) := by
  induction es generalizing s pre with
  | nil =>
    rcases nextDraw_before_pause hd hok with ⟨rfl, hnext, htail⟩ | ⟨pre', rfl, -, hnext, -⟩
    · exact runEffects_waited_here [] s hb hnext htail
    · rw [runEffects_nil (by simp [hnext])] at hu
      cases hu
  | cons e es ih =>
    rcases nextDraw_before_pause hd hok with ⟨rfl, hnext, htail⟩ | ⟨pre', rfl, hok', hnext, htail⟩
    · exact runEffects_waited_here (e :: es) s hb hnext htail
    · have hp : nextDraw s ≠ .pause := by simp [hnext]
      have hnext' : nextDraw { s with draws := .answer .ok :: pre' ++ rest } = .answer .ok := rfl
      have hp' : nextDraw { s with draws := .answer .ok :: pre' ++ rest } ≠ .pause := by rw [hnext']; simp
      cases e with
      | verdict r => rw [runEffects_verdict hp] at hu; cases hu
      | illegalCmd => rw [runEffects_illegalCmd hp] at hu; cases hu
      | write w =>
        have hcomm : writeRegister w { s with draws := .answer .ok :: pre' ++ rest } =
            { writeRegister w s with draws := .answer .ok :: pre' ++ rest } := by cases w <;> rfl
        rw [runEffects_write hp] at hu ⊢
        rw [runEffects_write hp', hcomm]
        simpa using ih (writeRegister w s) (.answer .ok :: pre') (by simpa using hb) (by simpa using hd) hok hu
      | emit t =>
        rcases ho : observe s.params t s.panel with r | q
        · rw [runEffects_rejected hnext ho] at hu; cases hu
        · rw [runEffects_accepted hnext ho] at hu ⊢
          rw [runEffects_accepted hnext' ho]
          exact ih (showPanel q (record t .ok s)) pre' hb htail hok' hu

/-- What `exec` answers on an idle state with other draws: the same effects, run over those draws (R249). -/
theorem exec_withDraws (i : Instr) {s : State} (h : s.idle) (draws : List Draw) :
    exec i { s with draws := draws } = .next
      (runEffects (.command i) (dispatchEffects (effectsOf i s) s) { s with draws := draws, busy := true }) := by
  rw [exec_eq, accept_idle (s := { s with draws := draws }) h,
    effectsOf_congr i (s := s) (t := { s with draws := draws }) rfl rfl rfl rfl rfl rfl]
  rfl

/-- Settles O19: the pause lands before the first effect after the accepted tokens, whatever it is; and the frame goes on from
there as without it. -/
theorem waitingCommandGoesOn : Obligations.WaitingCommandGoesOn := by
  intro i s u pre rest hs hh hok hu
  rw [exec_withDraws i hs] at hu
  obtain rfl := Host.Outcome.next.inj hu
  refine ⟨?_, fun before after q hacc he hv hlen ho => ?_, fun hbusy => ?_⟩
  · rintro rfl
    rw [runEffects_pause _ _ _ rfl]
    exact ⟨rfl, rfl⟩
  · have hi : Effect.illegalCmd ∉ before := fun h =>
      illegalCmd_not_mem_effectsOf i s (he ▸ List.mem_append_left after h)
    rw [dispatchEffects_accepting hacc, he]
    exact runEffects_waits _ before after { s with draws := pre ++ .pause :: rest, busy := true } pre rest q hv hi rfl hok
      hlen ho
  · obtain ⟨hundef, es, hwork, hrun⟩ := runEffects_waited (.command i) (dispatchEffects (effectsOf i s) s)
      { s with draws := pre ++ .pause :: rest, busy := true } pre rest rfl rfl hok hbusy
    obtain ⟨-, -, -, hhost, -⟩ := runEffects_environment (.command i) (dispatchEffects (effectsOf i s) s)
      { s with draws := pre ++ .pause :: rest, busy := true }
    exact ⟨_, step_waiting (hundef.trans hs.1) hbusy hwork (hhost.trans hh),
      (exec_withDraws i hs _).trans (congrArg Host.Outcome.next hrun)⟩

end Sys2Proof.Machine
end

section
/-! The rasterizer's tokens (30_encoding.md R90, R91; 41_rasterizer.md R140-R149). -/

namespace Sys2Proof.Machine

/-- A u16 is emitted as its quotient and its residue by 256 (30_encoding.md R91). -/
theorem halfTokens_eq_shownHalf (v : Half) : halfTokens v = shownHalf v := by
  have hhi : hiByte v = BitVec.ofNat 8 (v.toNat / 256) := by
    simp [hiByte, BitVec.extractLsb', Nat.shiftRight_eq_div_pow]
  have hlo : loByte v = BitVec.ofNat 8 v.toNat := by simp [loByte, BitVec.extractLsb']
  simp only [halfTokens, shownHalf, dataToken, hhi, hlo]

/-- A sum with an offset is truncated to its residue modulo 2^16, of a negative sum too (00_scope.md R9). -/
theorem trunc16_eq_shownCoord (v : Int) (offset : Half) : trunc16 (v + coord offset) = shownCoord v offset := by
  apply BitVec.eq_of_toNat_eq
  simp only [trunc16, shownCoord, BitVec.toNat_ofInt, BitVec.toNat_ofNat]
  omega

/-- The window's tokens are those of R90's table, for all bounds in ℤ. -/
theorem windowTokens_eq_shownWindowAt (p : Params) (xs ys xe ye : Int) :
    windowTokens p xs ys xe ye = shownWindowAt p xs ys xe ye := by
  simp [windowTokens, shownWindowAt, cmdToken, halfTokens_eq_shownHalf, trunc16_eq_shownCoord]

/-- A Plot is its point's window and the color (41_rasterizer.md R140). -/
theorem plotTokens_eq (p : Params) (c : Half) (x y : Int) :
    plotTokens p c (x, y) = shownWindowAt p x y x y ++ shownHalf c := by
  simp only [plotTokens, pixelTokens, windowTokens_eq_shownWindowAt, halfTokens_eq_shownHalf]

/-- A Plot has 13 tokens. -/
theorem plotTokens_length (p : Params) (c : Half) (xy : Int × Int) : (plotTokens p c xy).length = 13 := rfl

/-- The Plots of some points have 13 tokens each. -/
theorem plots_length (p : Params) (c : Half) (points : List (Int × Int)) :
    (points.flatMap (plotTokens p c)).length = 13 * points.length := by
  simp [List.length_flatMap, plotTokens_length, mul_comm]

/-- A rasterizer command's effects are the Plots of its points. -/
theorem effectsOf_rasterPlot {i : Instr} {c : Half} {points : List (Int × Int)} (h : rasterPlot i = some (c, points))
    (s : State) : effectsOf i s = plots s.params c points := by
  cases i with
  | drawPixel => cases h; rfl
  | drawLine => cases h; rfl
  | drawCircle => cases h; rfl
  | drawTriangle => cases h; rfl
  | drawRect x0 y0 w h' c' =>
    simp only [rasterPlot] at h
    split at h
    · cases h
    · rename_i hsize
      cases h
      simp only [effectsOf, drawRectEffects, if_neg hsize]
  | _ => cases h

/-- Settles O31: the command's effects are its points' Plots, which are delivered. -/
theorem rasterCommandsOfferTheirPlots : Obligations.RasterCommandsOfferTheirPlots := by
  refine ⟨windowTokens_eq_shownWindowAt, plotTokens_eq, fun i c points s q hi hs hq ho => ⟨?_, plots_length _ _ _⟩⟩
  rw [← plots_length s.params c points] at hq
  rw [exec_accepting hs, effectsOf_rasterPlot hi, plots, runEffects_emits _ _ q { s with busy := true } hq ho]
  exact congrArg Host.Outcome.next (endCommand_idle (s := s.delivered _ q) hs.1)

end Sys2Proof.Machine
end

section
/-! The frame of a command's registers (10_state.md R37): what a run of a frame's own effects can change of the register file
and of the fault registers. -/

namespace Sys2Proof.Machine

/-- A write of the frame's row of R37 keeps the registers outside that row as they were at an earlier state. -/
theorem PortFrame.keepsOthers_writeRegister {f : PortFrame} {w : RegWrite} {s u : State} (hw : f.mayWrite w = true)
    (h : f.keepsOthers s u) : f.keepsOthers s (writeRegister w u) := by
  obtain ⟨hcursor, hstyle, hfont, hcjk, hpack⟩ := h
  have inRow : ∀ {row : Instr → Bool} {P : Prop}, f.asks row = true → f.asks row = false → P :=
    fun hrow hnot => absurd (hnot.symm.trans hrow) Bool.false_ne_true
  cases w with
  | curX v => exact ⟨inRow hw, hstyle, hfont, hcjk, hpack⟩
  | curY v => exact ⟨inRow hw, hstyle, hfont, hcjk, hpack⟩
  | curColor v => exact ⟨hcursor, inRow hw, hfont, hcjk, hpack⟩
  | curCspace v => exact ⟨hcursor, inRow hw, hfont, hcjk, hpack⟩
  | curLspace v => exact ⟨hcursor, inRow hw, hfont, hcjk, hpack⟩
  | fontBase v => exact ⟨hcursor, hstyle, inRow hw, hcjk, hpack⟩
  | fontW v => exact ⟨hcursor, hstyle, inRow hw, hcjk, hpack⟩
  | fontH v => exact ⟨hcursor, hstyle, inRow hw, hcjk, hpack⟩
  | cjkBase v => exact ⟨hcursor, hstyle, hfont, inRow hw, hpack⟩
  | cjkCount v => exact ⟨hcursor, hstyle, hfont, inRow hw, hpack⟩
  | packResult v => exact ⟨hcursor, hstyle, hfont, hcjk, inRow hw⟩

/-- A run of a frame's own effects, wherever it ends or waits, changes no register outside the frame's row of R37: only its
register writes touch these registers at all. -/
theorem runEffects_keepsOthers (f : PortFrame) (es : List Effect) (hown : ∀ e ∈ es, f.mayDo e = true) (s : State) :
    f.keepsOthers s (runEffects f es s) :=
  runEffects_induction (P := f.keepsOthers s) (Q := f.keepsOthers s) f es
    (hwrite := fun w _ hw h => PortFrame.keepsOthers_writeRegister (hown (.write w) hw) h)
    (hok := fun _ _ _ _ _ h => h)
    (hend := fun _ h => h)
    (hverdict := fun _ _ h => h)
    (hillegal := fun _ _ h => h)
    (hobs := fun _ _ _ h => h)
    (hfail := fun _ _ h => h)
    (hnever := fun _ _ _ _ h => h)
    (hpause := fun _ _ _ h => h)
    s ⟨fun _ => rfl, fun _ => rfl, fun _ => rfl, fun _ => rfl, fun _ => rfl⟩

/-- While FAULT = 1 a further fault leaves FAULT and its code; otherwise both are the new fault's (60_exceptions.md R241). -/
theorem raiseFault_faults (code : FaultCode) (s : State) :
    (s.fault = true ∧ (raiseFault code s).faults = s.faults) ∨
    (s.fault = false ∧ (raiseFault code s).faults = (true, code)) := by
  cases hf : s.fault <;> simp [State.faults, hf]

/-- The fault registers and the tokens of a frame's execution in progress since the state `s`: no fault has been taken, and
only a command has offered tokens. -/
structure PortFrame.Unfaulted (f : PortFrame) (s u : State) : Prop where
  faults_eq : u.faults = s.faults
  trace_eq : (f.asks fun _ => true) = false → u.trace = s.trace

/-- How the fault registers can stand where a frame's execution that began at `s` ends or waits: unchanged, by a transport
failure at the last token, or by the illegal command of a reserved opcode, which offers no token (60_exceptions.md R241-R244). -/
abbrev PortFrame.faultsEnd (f : PortFrame) (s t : State) : Prop :=
  t.faults = s.faults ∨ s.failedTransport t ∨
    ((∃ opcode, f = .reserved opcode) ∧ t.faults = (true, .illegalCmd) ∧ t.trace = s.trace)

/-- A frame that can be an illegal command is a reserved opcode's, and offers no token (60_exceptions.md R244). -/
theorem PortFrame.mayDo_illegalCmd {f : PortFrame} (h : f.mayDo .illegalCmd = true) :
    (∃ opcode, f = .reserved opcode) ∧ (f.asks fun _ => true) = false := by
  cases f with
  | command i => cases h
  | reserved opcode => exact ⟨⟨opcode, rfl⟩, rfl⟩

/-- A token that fails takes the transport's fault there, or, FAULT being 1 already, changes no fault register (R241, R243). -/
theorem PortFrame.Unfaulted.fail {f : PortFrame} {s u : State} (h : f.Unfaulted s u) (k : Token) :
    f.faultsEnd s (raiseFault .transport (losePanel (record k .fail u))) := by
  have hfault : u.fault = s.fault := congrArg Prod.fst h.faults_eq
  rcases raiseFault_faults .transport (losePanel (record k .fail u)) with ⟨-, hkeep⟩ | ⟨hf, hnew⟩
  · exact .inl (hkeep.trans h.faults_eq)
  · exact .inr (.inl ⟨hfault.symm.trans hf, hnew, rfl, k, by simp⟩)

/-- An illegal command takes its fault, or, FAULT being 1 already, changes no fault register (R241, R244). -/
theorem PortFrame.Unfaulted.illegalCmd {f : PortFrame} {s u : State} (h : f.Unfaulted s u)
    (hmay : f.mayDo .illegalCmd = true) : f.faultsEnd s (raiseFault .illegalCmd u) := by
  obtain ⟨hreserved, hsilent⟩ := PortFrame.mayDo_illegalCmd hmay
  rcases raiseFault_faults .illegalCmd u with ⟨-, hkeep⟩ | ⟨-, hnew⟩
  · exact .inl (hkeep.trans h.faults_eq)
  · exact .inr (.inr ⟨hreserved, hnew, h.trace_eq hsilent⟩)

/-- A run of a frame's own effects changes FAULT and FAULT_CODE only by a transport failure at the last token it offers, or by
the illegal command of a reserved opcode. -/
theorem runEffects_faults (f : PortFrame) (es : List Effect) (hown : ∀ e ∈ es, f.mayDo e = true) (s : State) :
    f.faultsEnd s (runEffects f es s) :=
  runEffects_induction (P := f.Unfaulted s) (Q := f.faultsEnd s) f es
    (hwrite := fun w u _ h => ⟨by simpa [State.faults] using h.faults_eq, by simpa using h.trace_eq⟩)
    (hok := fun t _ _ ht _ h => ⟨h.faults_eq, fun hsilent =>
      absurd (hsilent.symm.trans (hown (.emit t) ht)) Bool.false_ne_true⟩)
    (hend := fun _ h => .inl h.faults_eq)
    (hverdict := fun _ _ h => .inl h.faults_eq)
    (hillegal := fun _ hmem h => h.illegalCmd (hown .illegalCmd hmem))
    (hobs := fun _ _ _ h => .inl h.faults_eq)
    (hfail := fun t _ h => h.fail t)
    (hnever := fun _ _ _ _ h => .inl h.faults_eq)
    (hpause := fun _ _ _ h => .inl h.faults_eq)
    s ⟨rfl, fun _ => rfl⟩

/-- A step, but a reset, of a frame's execution that waits: the host's move changes READY, the host's side and the reads
alone, and then the frame's execution goes on or still waits (70 R270, R281; 60_exceptions.md R259). -/
theorem step_work_cases {s t : State} {w : Work} (hb : s.busy = true) (hw : s.work = some w)
    (hreset : ∀ moves, s.host ≠ .reset :: moves) (h : step s = .next t) :
    ∃ ready host reads freeReads, ∃ u : State,
      u = { s with ready := ready, host := host, reads := reads, freeReads := freeReads } ∧
      (t = u ∨ t = runEffects w.frame w.rest u) := by
  have resumed : ∀ u : State, u.work = s.work → resume u = runEffects w.frame w.rest u := by
    intro u hu
    simp [resume, hu, hw]
  have idle : ¬ s.busy = false := by simp [hb]
  obtain ⟨-, hcases⟩ := step_cases h
  rcases hcases with ⟨hidle, -, -⟩ | ⟨hidle, -⟩ | ⟨hidle, -⟩ | ⟨n, moves, -, ht⟩ | ⟨moves, -, ht⟩ | ⟨moves, hh, -⟩ |
    ⟨-, ht⟩
  · exact absurd hidle idle
  · exact absurd hidle idle
  · exact absurd hidle idle
  · rw [resumed (portRead n (withHost moves s)) rfl] at ht
    exact ⟨_, _, _, _, _, rfl, ht⟩
  · rw [resumed (raiseReady (withHost moves s)) rfl] at ht
    exact ⟨_, _, _, _, _, rfl, ht⟩
  · exact absurd hh (hreset moves)
  · exact ⟨_, _, _, _, s, rfl, .inr (ht.trans (resumed s rfl))⟩

/-- Settles O54: a command, and a frame's execution that goes on, is a run of the frame's own effects; these write only the
frame's row, and take a fault only as a failed token or as a reserved opcode's illegal command. -/
theorem commandsWriteOnlyTheirRegisters : Obligations.CommandsWriteOnlyTheirRegisters := by
  refine ⟨fun i s t h => ?_, fun s t w hinv hw hreset h => ?_⟩
  · rw [exec_eq] at h
    obtain ⟨-, -, rfl⟩ := accept_cases h
    have hown := dispatchEffects_own s (effectsOf_own i s)
    refine ⟨runEffects_keepsOthers _ _ hown { s with busy := true }, ?_⟩
    rcases runEffects_faults _ _ hown { s with busy := true } with hkeep | hfail | ⟨⟨opcode, hreserved⟩, -⟩
    · exact .inl hkeep
    · exact .inr hfail
    · cases hreserved
  · obtain ⟨-, hbusy, hown⟩ := (State.inv_iff s).1 hinv
    have hb : s.busy = true := by rw [hbusy, hw]; rfl
    obtain ⟨ready, host, reads, freeReads, u, rfl, rfl | rfl⟩ := step_work_cases hb hw hreset h
    · exact ⟨⟨fun _ => rfl, fun _ => rfl, fun _ => rfl, fun _ => rfl, fun _ => rfl⟩, .inl rfl⟩
    · exact ⟨runEffects_keepsOthers _ _ (hown w hw) _, runEffects_faults _ _ (hown w hw) _⟩

end Sys2Proof.Machine
end

section
/-! The register port: STATUS and the register map (10_state.md R23, R24, R31, R35), the host's reads (R36), and the step at a
presented frame (R21). -/

namespace Sys2Proof.Machine

/-- A 16-bit register is zero-extended on the port (10_state.md R23). -/
theorem portHalf_toNat (v : Half) : (portHalf v).toNat = v.toNat :=
  (BitVec.toNat_append 0 v).trans (by simp)

/-- FONT_GEOM is FONT_H over FONT_W (10_state.md R31). -/
theorem fontGeomWord_toNat (s : State) : (fontGeomWord s).toNat = s.fontH.toNat * 256 + s.fontW.toNat := by
  have hgeom : (fontGeomWord s).toNat = (s.fontH ++ s.fontW).toNat := portHalf_toNat (s.fontH ++ s.fontW)
  rw [hgeom, BitVec.toNat_append, ← Nat.shiftLeft_add_eq_or_of_lt s.fontW.isLt, Nat.shiftLeft_eq]

/-- A flag's value has the flag in bit 0 and no other bit. -/
theorem flagBit_getLsbD (b : Bool) (k : Nat) : (flagBit b).getLsbD k = (decide (k = 0) && b) := by
  cases b <;> simp [flagBit]

/-- STATUS bit by bit: BUSY, READY, FAULT, five zero bits, and FAULT_CODE with zeros above it (10_state.md R24). -/
theorem statusWord_getLsbD (s : State) (k : Nat) :
    (statusWord s).getLsbD k =
      if k = 0 then s.busy else if k = 1 then s.ready else if k = 2 then s.fault else if k < 8 then false
      else (faultCodeBits s.faultCode).getLsbD (k - 8) := by
  refine BitVec.getLsbD_append.trans ?_
  simp only [BitVec.getLsbD_append, flagBit_getLsbD, BitVec.ofNat_eq_ofNat, BitVec.getLsbD_zero]
  rcases k with _ | _ | _ | k
  · rfl
  · rfl
  · rfl
  · by_cases hgap : k < 5
    · simp [hgap]
    · have habove : ¬ k - 5 < 4 → (faultCodeBits s.faultCode).getLsbD (k - 5) = false := fun h =>
        BitVec.getLsbD_of_ge _ _ (not_lt.1 h)
      have hcode : ¬ k + 1 + 1 + 1 < 8 := by omega
      by_cases hfield : k - 5 < 4 <;> simp [hgap, hcode, hfield, habove]

/-- STATUS above its three flags (10_state.md R24). -/
theorem statusWord_getLsbD_above_flags (s : State) {k : Nat} (h : 3 ≤ k) :
    (statusWord s).getLsbD k = if k < 8 then false else (faultCodeBits s.faultCode).getLsbD (k - 8) := by
  rw [statusWord_getLsbD, if_neg (by omega), if_neg (by omega), if_neg (by omega)]

/-- FAULT_CODE's field of STATUS is bits 8 to 11 (10_state.md R24). -/
theorem statusWord_faultCode (s : State) : (statusWord s).extractLsb' 8 4 = faultCodeBits s.faultCode := by
  refine BitVec.eq_of_getLsbD_eq fun k hk => ?_
  rw [BitVec.getLsbD_extractLsb', statusWord_getLsbD_above_flags s (by omega)]
  simp [hk]

/-- Settles O16, bit by bit; FAULT_CODE is the number its field of four bits holds. -/
theorem statusShowsItsFields : Obligations.StatusShowsItsFields := by
  intro s
  refine ⟨statusWord_getLsbD s 0, statusWord_getLsbD s 1, statusWord_getLsbD s 2, ?_, fun k hk => ?_⟩
  · have hfield : (statusWord s).toNat / 256 % 16 = (faultCodeBits s.faultCode).toNat := by
      rw [← statusWord_faultCode, BitVec.extractLsb'_toNat, Nat.shiftRight_eq_div_pow]
    refine hfield.trans ?_
    cases s.faultCode <;> rfl
  · refine (statusWord_getLsbD_above_flags s (by omega)).trans ?_
    rcases hk with ⟨-, hgap⟩ | habove
    · rw [if_pos (by omega)]
    · rw [if_neg (by omega), BitVec.getLsbD_of_ge _ _ (by omega)]

/-- A launched machine's STATUS shows READY alone (70 R270, R271). -/
theorem statusWord_launch (p : Params) (ready : Bool) (mem : List Host.Cell) (draws : List Draw) (host : List HostMove) :
    statusWord (State.launch p ready mem draws host) = if ready then 2 else 0 := by
  simp only [statusWord, State.launch]
  cases ready <;> decide

/-- Settles O15, number by number: every register is 0 at launch, and so is its word on the port. -/
theorem launchedRegistersReadZero : Obligations.LaunchedRegistersReadZero := by
  intro p ready mem draws host
  refine ⟨statusWord_launch p ready mem draws host, fun n hn => ?_⟩
  have hhalf : portHalf 0 = 0 := by decide
  unfold registerValue
  split
  case h_1 hstatus => exact absurd (BitVec.eq_of_toNat_eq hstatus) hn
  -- FONT_BASE, FONT_GEOM, CJK_BASE and the reserved numbers; the rest are 16-bit registers.
  case h_7 => rfl
  case h_8 => exact BitVec.eq_of_toNat_eq ((fontGeomWord_toNat _).trans (by simp [State.launch]))
  case h_9 => rfl
  case h_12 => rfl
  all_goals exact hhalf

/-- While BUSY = 0 the port returns the register (10_state.md R36). -/
theorem readRegister_idle {s : State} (hb : s.busy = false) (n : Byte) : readRegister s n = registerValue s n := by
  simp [readRegister, hb]

/-- STATUS is read as it stands at all times (10_state.md R36). -/
theorem readRegister_status (s : State) : readRegister s 0 = registerValue s 0 := by simp [readRegister]

/-- A reserved number reads 0 at all times (10_state.md R35, log 7). -/
theorem readRegister_reserved (s : State) {n : Byte} (h : 0x0B ≤ n.toNat) : readRegister s n = 0 := by
  have hbound : ¬ n.toNat ≤ 0x0A := by omega
  have hvalue : registerValue s n = 0 := by
    unfold registerValue
    split
    case h_12 => rfl
    all_goals omega
  simp [readRegister, hbound, hvalue]

/-- Settles O17: idle, each number reads its register's word on the port; a reserved one reads 0. -/
theorem registerPortReturnsTheRegisters : Obligations.RegisterPortReturnsTheRegisters := by
  refine ⟨fun s hb => ?_, fun s n hn => readRegister_reserved s hn⟩
  simp only [readRegister_idle hb]
  exact ⟨portHalf_toNat _, portHalf_toNat _, portHalf_toNat _, portHalf_toNat _, portHalf_toNat _, rfl,
    fontGeomWord_toNat s, rfl, portHalf_toNat _, portHalf_toNat _⟩

/-- While BUSY = 0 a read draws no free value: it changes nothing but the list of reads (10_state.md R36). -/
theorem portRead_idle {s : State} (hb : s.busy = false) (n : Byte) :
    portRead n s = { s with reads := s.reads ++ [⟨n, registerValue s n⟩] } := by
  simp [portRead, readRegister_idle hb, readIsFree, hb]

/-- A run carries the host's moves and the reads along. -/
theorem runEffects_host_reads (f : PortFrame) (es : List Effect) (s : State) (host : List HostMove) (reads : List RegRead)
    (freeReads : Nat) :
    runEffects f es { s with host := host, reads := reads, freeReads := freeReads } =
      { runEffects f es s with host := host, reads := reads, freeReads := freeReads } := by
  obtain ⟨-, -, hready, -⟩ := runEffects_environment f es s
  rw [runEffects_hostSide f es s s.ready host reads freeReads, ← hready]

/-- Settles O18: the idle block and the hung one only note the read; a run that goes on after it carries the read along. -/
theorem registerReadHasNoSideEffect : Obligations.RegisterReadHasNoSideEffect := by
  refine ⟨fun s n moves hu hb hh => ?_, fun s n moves w hu hb hw hwait hh => ?_, fun s n moves w hu hb hw hwait hh => ?_⟩
  · have hstep : step s = .next (portRead n (withHost moves s)) := by simp [step, machineStep, hu, hb, stepIdle, hh]
    exact hstep.trans (congrArg Host.Outcome.next (portRead_idle (s := withHost moves s) hb n))
  · obtain ⟨f, es, wait⟩ := w
    obtain rfl : wait = .host := hwait
    have hstep : step s = .next (runEffects f es (portRead n (withHost moves s))) := by
      simp [step, machineStep, hu, hb, hw, stepPaused, hh, resume]
    have hrun : runEffects f es (portRead n (withHost moves s)) = _ :=
      runEffects_host_reads f es { s with host := [] } moves (s.reads ++ [RegRead.mk n (readRegister s n)])
        (portRead n s).freeReads
    refine ⟨_, _, readRegister s n, hstep, step_waiting (s := { s with host := [] }) hu hb hw rfl, ?_, by rw [hrun]⟩
    rintro rfl
    exact readRegister_status s
  · obtain ⟨f, es, wait⟩ := w
    obtain rfl : wait = .transport := hwait
    have hstep : step s = .next (portRead n (withHost moves s)) := by
      simp [step, machineStep, hu, hb, hw, stepHung, hh]
    refine ⟨_, readRegister s n, hstep, ?_, rfl⟩
    rintro rfl
    exact readRegister_status s

/-- Settles O5: the idle block takes the frame the bytes decode to, and what is left of them stays presented. -/
theorem stepRunsTheDecodedFrame : Obligations.StepRunsTheDecodedFrame := by
  intro s bytes left moves i hu hb hh hdecode
  have hleft : afterFrame left moves = if left = [] then moves else .send left :: moves := by cases left <;> rfl
  rw [← hleft]
  change step s = exec i (withHost (afterFrame left moves) s)
  simp [step, machineStep, hu, hb, stepIdle, hh, takeFrame, hdecode]

end Sys2Proof.Machine
end

section
/-! What no command and no step changes (00_scope.md R7; 20_memory.md R51, R58; 70 R270, R272, R277, R281): source memory but
for the host's store, the tokens already offered, and for a command without a token the observer and the transport. -/

namespace Sys2Proof.Machine

@[simp] theorem effectTokens_verdict (r : Verdict) (es : List Effect) :
    effectTokens (.verdict r :: es) = effectTokens es := rfl

@[simp] theorem effectTokens_illegalCmd (es : List Effect) : effectTokens (.illegalCmd :: es) = effectTokens es := rfl

/-- The host's next move lands where the list of draws begins with it (log 4). -/
theorem draws_of_nextDraw_pause {s : State} (h : nextDraw s = .pause) : s.draws = .pause :: s.draws.tail := by
  cases hd : s.draws <;> simp_all [nextDraw]

/-- Dispatch adds no token to a frame's effects (60_exceptions.md R249). -/
theorem effectTokens_dispatchEffects {own : List Effect} (s : State) (h : effectTokens own = []) :
    effectTokens (dispatchEffects own s) = [] := by
  rcases dispatchEffects_cases own s with ⟨-, h'⟩ | ⟨-, -, h'⟩ | ⟨-, -, h'⟩ <;> rw [h']
  · rfl
  · rfl
  · exact h

/-- A run without a token offers none and leaves the observer alone; of the draws it can use up a pause (log 4). -/
theorem runEffects_tokenless (f : PortFrame) (es : List Effect) (s : State) (h : effectTokens es = []) :
    (runEffects f es s).trace = s.trace ∧ (runEffects f es s).panel = s.panel ∧
    ((runEffects f es s).draws = s.draws ∨ s.draws = .pause :: (runEffects f es s).draws) := by
  induction es generalizing s with
  | nil =>
    by_cases hp : nextDraw s = .pause
    · rw [runEffects_pause f _ s hp]; exact ⟨rfl, rfl, .inr (draws_of_nextDraw_pause hp)⟩
    · rw [runEffects_nil hp]; exact ⟨rfl, rfl, .inl rfl⟩
  | cons e es ih =>
    by_cases hp : nextDraw s = .pause
    · rw [runEffects_pause f _ s hp]; exact ⟨rfl, rfl, .inr (draws_of_nextDraw_pause hp)⟩
    · cases e with
      | emit t => cases h
      | write w => rw [runEffects_write hp]; simpa using ih (writeRegister w s) h
      | verdict r => rw [runEffects_verdict hp]; exact ⟨rfl, rfl, .inl rfl⟩
      | illegalCmd => rw [runEffects_illegalCmd hp]; exact ⟨rfl, rfl, .inl rfl⟩

/-- Settles O55: `exec` runs the command's effects, and no run of effects touches the environment. -/
theorem commandsKeepTheEnvironment : Obligations.CommandsKeepTheEnvironment := by
  intro i s t h
  rw [exec_eq] at h
  obtain ⟨-, -, rfl⟩ := accept_cases h
  obtain ⟨hparams, hmem, hready, hhost, hreads, -⟩ :=
    runEffects_environment (.command i) (dispatchEffects (effectsOf i s) s) { s with busy := true }
  exact ⟨fun a => by rw [hmem], hparams, hready, hhost, hreads,
    fun hnone => runEffects_tokenless _ _ _ (effectTokens_dispatchEffects s hnone)⟩

/-- A run only adds to the tokens offered (20_memory.md R58). -/
theorem runEffects_trace (f : PortFrame) (es : List Effect) (s : State) : s.trace <+: (runEffects f es s).trace := by
  have offered : ∀ t a (u : State), s.trace <+: u.trace → s.trace <+: (record t a u).trace :=
    fun t a u hu => hu.trans (List.prefix_append _ _)
  exact runEffects_induction (P := fun u => s.trace <+: u.trace) (Q := fun u => s.trace <+: u.trace) f es
    (hwrite := fun w u _ hu => by simpa using hu)
    (hok := fun t _ u _ _ hu => offered t .ok u hu)
    (hend := fun _ hu => hu)
    (hverdict := fun _ _ hu => hu)
    (hillegal := fun _ _ hu => hu)
    (hobs := fun t _ u hu => offered t .ok u hu)
    (hfail := fun t u hu => offered t .fail u hu)
    (hnever := fun _ t u _ hu => offered t .never u hu)
    (hpause := fun _ _ _ hu => hu)
    s List.prefix_rfl

/-- A resumed execution only adds to the tokens offered. -/
theorem resume_trace (s : State) : s.trace <+: (resume s).trace := by
  unfold resume
  split
  · exact runEffects_trace _ _ s
  · exact List.prefix_rfl

/-- A step only adds to the tokens offered: the host's moves and a reset offer none (70 R270). -/
theorem step_trace {s t : State} (h : step s = .next t) : s.trace <+: t.trace := by
  obtain ⟨-, hcases⟩ := step_cases h
  rcases hcases with ⟨-, -, rfl⟩ | ⟨-, bytes, moves, -, htake⟩ | ⟨-, a, v, moves, -, -, rfl⟩ |
    ⟨n, moves, -, rfl | rfl⟩ | ⟨moves, -, rfl | rfl⟩ | ⟨moves, -, rfl⟩ | ⟨-, rfl⟩
  · exact List.prefix_rfl
  · rcases takeFrame_cases htake with rfl | ⟨f, es, left, -, rfl⟩
    · exact List.prefix_rfl
    · exact runEffects_trace f es { withHost left s with busy := true }
  · exact List.prefix_rfl
  · exact List.prefix_rfl
  · exact resume_trace (portRead n (withHost moves s))
  · exact List.prefix_rfl
  · exact resume_trace (raiseReady (withHost moves s))
  · exact List.prefix_rfl
  · exact resume_trace s

/-- Settles O56: the tokens offered before a step are a prefix of those after it. -/
theorem offeredTokensStay : Obligations.OfferedTokensStay := by
  intro s t h
  obtain ⟨more, hmore⟩ := step_trace h
  exact ⟨more, hmore.symm⟩

/-- A run leaves source memory alone (70 R277). -/
theorem runEffects_mem (f : PortFrame) (es : List Effect) (s : State) : (runEffects f es s).mem = s.mem := by
  obtain ⟨-, hmem, -⟩ := runEffects_environment f es s
  exact hmem

/-- A resumed execution leaves source memory alone (70 R277). -/
theorem resume_mem (s : State) : (resume s).mem = s.mem := by
  unfold resume
  split
  · exact runEffects_mem _ _ s
  · rfl

/-- A step leaves source memory alone, but for a byte the host places while BUSY = 0 (20_memory.md R51, 70 R277). -/
theorem step_mem {s t : State} (h : step s = .next t) :
    t.mem = s.mem ∨ ∃ (addr : Word) (v : Byte) (moves : List HostMove), s.host = .store addr v :: moves ∧
      s.busy = false ∧ addr.toNat < s.params.memSize ∧ t.mem = writeByte s.mem addr.toNat v := by
  obtain ⟨-, hcases⟩ := step_cases h
  rcases hcases with ⟨-, -, rfl⟩ | ⟨-, bytes, moves, -, htake⟩ | ⟨hb, a, v, moves, hhost, ha, rfl⟩ |
    ⟨n, moves, -, rfl | rfl⟩ | ⟨moves, -, rfl | rfl⟩ | ⟨moves, -, rfl⟩ | ⟨-, rfl⟩
  · exact .inl rfl
  · rcases takeFrame_cases htake with rfl | ⟨f, es, left, -, rfl⟩
    · exact .inl rfl
    · exact .inl (runEffects_mem f es { withHost left s with busy := true })
  · exact .inr ⟨a, v, moves, hhost, hb, ha, rfl⟩
  · exact .inl rfl
  · exact .inl (resume_mem (portRead n (withHost moves s)))
  · exact .inl rfl
  · exact .inl (resume_mem (raiseReady (withHost moves s)))
  · exact .inl rfl
  · exact .inl (resume_mem s)

/-- Settles O58: the host's store is the one step that touches source memory, and it is read after write there. -/
theorem memoryChangesOnlyByTheHost : Obligations.MemoryChangesOnlyByTheHost := by
  refine ⟨fun s addr v moves hwf hu hb hhost haddr => ?_, fun s t hwf h => ?_⟩
  · have hstep : step s = .next { s with host := moves, mem := writeByte s.mem addr.toNat v } := by
      simp [step, machineStep, hu, hb, stepIdle, hhost, placeByte, withHost, haddr]
    exact ⟨_, hstep, readByte_writeByte s.mem hwf addr.toNat v, rfl⟩
  · rcases step_mem h with hmem | ⟨addr, v, moves, hhost, hb, haddr, hmem⟩
    · exact .inl fun a => by rw [hmem]
    · exact .inr ⟨addr, v, moves, hhost, hb, haddr, fun a => by rw [hmem, readByte_writeByte s.mem hwf]⟩

end Sys2Proof.Machine
end

section
/-! The observer's ranges (20_memory.md R64, R65) and begin-memory-write (R66), token by token; the windows the observer opens
and those it refuses. -/

namespace Sys2Proof.Machine

/-- An observer that can take a command token acts on its byte alone (20_memory.md R68, R69). -/
theorem observe_cmd_of_settled (p : Params) {q : Panel} (hq : q.settled) (b : Byte) :
    observe p ⟨.cmd, b⟩ q = observeCommand p b q := by
  obtain ⟨hlost, hidle | ⟨hstream, hfull, hhi⟩⟩ := hq
  · simp [observe, hlost, observeCmd, hidle]
  · simp [observe, hlost, observeCmd, hstream, hhi, not_lt.2 hfull]

theorem observe_caset (p : Params) {q : Panel} (hq : q.settled) :
    observe p ⟨.cmd, p.cmdCaset⟩ q = .ok { q with mode := .col [] } := by
  rw [observe_cmd_of_settled p hq, observeCommand, if_pos rfl]

theorem observe_raset {p : Params} (hp : p.distinctCommands) {q : Panel} (hq : q.settled) :
    observe p ⟨.cmd, p.cmdRaset⟩ q = .ok { q with mode := .row [] } := by
  obtain ⟨hcr, -, -⟩ := hp
  rw [observe_cmd_of_settled p hq, observeCommand, if_neg hcr.symm, if_pos rfl]

/-- The column command and its four bytes set the column range (20_memory.md R64). -/
theorem observeAll_columns (p : Params) {q : Panel} (hq : q.settled) (b0 b1 b2 b3 : Byte) :
    observeAll p [⟨.cmd, p.cmdCaset⟩, ⟨.data, b0⟩, ⟨.data, b1⟩, ⟨.data, b2⟩, ⟨.data, b3⟩] q =
      .ok { q with cs := some (be16 b0 b1), ce := some (be16 b2 b3), mode := .idle } := by
  rw [observeAll, observe_caset p hq]
  simp [observeAll, observe, observeData, hq.1, be16]

/-- The row command and its four bytes set the row range (20_memory.md R65). -/
theorem observeAll_rows {p : Params} (hp : p.distinctCommands) {q : Panel} (hq : q.settled) (b0 b1 b2 b3 : Byte) :
    observeAll p [⟨.cmd, p.cmdRaset⟩, ⟨.data, b0⟩, ⟨.data, b1⟩, ⟨.data, b2⟩, ⟨.data, b3⟩] q =
      .ok { q with rs := some (be16 b0 b1), re := some (be16 b2 b3), mode := .idle } := by
  rw [observeAll, observe_raset hp hq]
  simp [observeAll, observe, observeData, hq.1, be16]

/-- Settles O51: the four bytes after the command set the range. -/
theorem observerReceivesRanges : Obligations.ObserverReceivesRanges := fun p _ b0 b1 b2 b3 hp hq =>
  ⟨observe_caset p hq, observe_raset hp hq, observeAll_columns p hq b0 b1 b2 b3, observeAll_rows hp hq b0 b1 b2 b3⟩

/-- The ten tokens of a window sequence before its begin-memory-write, for bounds as emitted (30_encoding.md R90). -/
def boundTokens (p : Params) (cs ce rs re : Half) : List Token :=
  cmdToken p.cmdCaset :: (halfTokens cs ++ halfTokens ce) ++ cmdToken p.cmdRaset :: (halfTokens rs ++ halfTokens re)

/-- The observer that has received these ranges and no begin-memory-write. -/
def Panel.bounded (q : Panel) (cs ce rs re : Half) : Panel :=
  { q with cs := some cs, ce := some ce, rs := some rs, re := some re, mode := .idle }

/-- The places of a window `w` wide in raster order, its first at `(x, y)` (20_memory.md R67). -/
def rasterPlace (x y : Int) (w j : Nat) : Int × Int := (x + (j % w : Nat), y + (j / w : Nat))

/-- How many columns, or rows, a range holds. -/
def rangeSize (a b : Half) : Nat := b.toNat - a.toNat + 1

/-- The observer in an open stream of this window after `k` whole pixels (20_memory.md R66, R67), showing `image`. -/
def Panel.filling (q : Panel) (cs ce rs re : Half) (k : Nat) (image : List Pixel) : Panel :=
  { q with
    cs := some cs
    ce := some ce
    rs := some rs
    re := some re
    mode := .stream
    px := (rasterPlace (coord cs) (coord rs) (rangeSize cs ce) k).1
    py := (rasterPlace (coord cs) (coord rs) (rangeSize cs ce) k).2
    count := k
    hi := none
    image := image }

/-- The window sequence is its bounds, emitted modulo 2^16, and begin-memory-write (30_encoding.md R90). -/
theorem windowTokens_eq_boundTokens (p : Params) (xs ys xe ye : Int) :
    windowTokens p xs ys xe ye =
      boundTokens p (shownCoord xs p.columnOffset) (shownCoord xe p.columnOffset) (shownCoord ys p.lineOffset)
        (shownCoord ye p.lineOffset) ++ [cmdToken p.cmdRamwr] := by
  simp [windowTokens, boundTokens, trunc16_eq_shownCoord]

/-- The first ten tokens of a window sequence set both ranges. -/
theorem observeAll_boundTokens {p : Params} (hp : p.distinctCommands) {q : Panel} (hq : q.settled) (cs ce rs re : Half) :
    observeAll p (boundTokens p cs ce rs re) q = .ok (q.bounded cs ce rs re) := by
  have hcols := observeAll_columns p hq (hiByte cs) (loByte cs) (hiByte ce) (loByte ce)
  have hrows := observeAll_rows hp (q := { q with cs := some cs, ce := some ce, mode := .idle }) ⟨hq.1, .inl rfl⟩
    (hiByte rs) (loByte rs) (hiByte re) (loByte re)
  simp only [hiByte, loByte, be16_bytes] at hcols hrows
  rw [boundTokens, observeAll_append]
  simp only [halfTokens, cmdToken, dataToken, hiByte, loByte, List.cons_append, List.nil_append, hcols, hrows]
  rfl

/-- Begin-memory-write after both ranges opens an empty stream of a window on the panel and refuses any other (R66). -/
theorem observe_ramwr {p : Params} (hp : p.distinctCommands) {q : Panel} (hlost : q.lost = false) (cs ce rs re : Half) :
    observe p (cmdToken p.cmdRamwr) (q.bounded cs ce rs re) =
      if windowInRange p cs ce rs re then .ok (q.filling cs ce rs re 0 q.image) else .error .panelWindow := by
  obtain ⟨-, hcw, hrw⟩ := hp
  rw [cmdToken, observe_cmd_of_settled p (q := q.bounded cs ce rs re) ⟨hlost, .inl rfl⟩, observeCommand, if_neg hcw.symm,
    if_neg hrw.symm, if_pos rfl]
  simp [beginStream, Panel.bounded, Panel.filling, rasterPlace]

/-- A window on the panel opens its empty stream (20_memory.md R66). -/
theorem observeAll_windowTokens {p : Params} (hp : p.distinctCommands) {q : Panel} (hq : q.settled) {xs ys xe ye : Int}
    (hr : windowInRange p (shownCoord xs p.columnOffset) (shownCoord xe p.columnOffset) (shownCoord ys p.lineOffset)
      (shownCoord ye p.lineOffset) = true) :
    observeAll p (windowTokens p xs ys xe ye) q =
      .ok (q.filling (shownCoord xs p.columnOffset) (shownCoord xe p.columnOffset) (shownCoord ys p.lineOffset)
        (shownCoord ye p.lineOffset) 0 q.image) := by
  rw [windowTokens_eq_boundTokens, observeAll_append, observeAll_boundTokens hp hq]
  simp only [observeAll, observe_ramwr hp hq.1, hr, if_true]

/-- A window for bounds in ℤ lies on the panel, and no sum with an offset leaves 16 bits (20_memory.md R66). -/
structure WindowOnPanel (p : Params) (xs ys xe ye : Int) : Prop where
  left : 0 ≤ xs
  columns : xs ≤ xe
  right : xe < coord p.columnCount
  rightFits : xe + coord p.columnOffset < 65536
  top : 0 ≤ ys
  lines : ys ≤ ye
  bottom : ye < coord p.lineCount
  bottomFits : ye + coord p.lineOffset < 65536

/-- A u16 in ℤ is one of the 65536 values of its width. -/
theorem coord_bounds (v : Half) : 0 ≤ coord v ∧ coord v < 65536 := by
  have h := v.isLt
  simp only [coord]
  omega

/-- A coordinate as emitted, in ℤ: the residue of the sum modulo 2^16 (30_encoding.md R90). -/
theorem coord_shownCoord (v : Int) (offset : Half) : coord (shownCoord v offset) = (v + coord offset) % 65536 := by
  simp only [shownCoord, coord, BitVec.toNat_ofNat]
  omega

/-- A coordinate whose sum with its offset fits 16 bits is emitted as that sum. -/
theorem coord_shownCoord_of_fits {v : Int} {offset : Half} (h0 : 0 ≤ v) (h : v + coord offset < 65536) :
    coord (shownCoord v offset) = v + coord offset := by
  have := coord_bounds offset
  rw [coord_shownCoord]
  omega

/-- A u16 argument is emitted as its 16-bit sum with the offset. -/
theorem shownCoord_coord (v offset : Half) : shownCoord (coord v) offset = v + offset := by
  apply BitVec.eq_of_toNat_eq
  simp only [shownCoord, coord, BitVec.toNat_ofNat, BitVec.toNat_add]
  omega

/-- The window sequence of u16 bounds, as R90's table gives it. -/
theorem shownWindow_eq_windowTokens (p : Params) (xs ys xe ye : Half) :
    shownWindow p xs ys xe ye = windowTokens p (coord xs) (coord ys) (coord xe) (coord ye) := by
  simp only [windowTokens_eq_shownWindowAt, shownWindowAt, shownCoord_coord, shownWindow]

/-- One axis of the range check: sums emitted modulo 2^16 pass it exactly where neither wraps and the bounds lie on the panel
in order. -/
theorem axis_inRange_iff {a b offset n : Int} (ha : 0 ≤ a) (ha' : a < 65536) (hb : 0 ≤ b) (hb' : b < a + 65536)
    (ho : 0 ≤ offset) (ho' : offset < 65536) :
    offset ≤ (a + offset) % 65536 ∧ (a + offset) % 65536 ≤ (b + offset) % 65536 ∧
      (b + offset) % 65536 ≤ offset + n - 1 ↔ a ≤ b ∧ b < n ∧ b + offset < 65536 := by
  omega

/-- The range check on the bounds as emitted is whether the window lies on the panel (20_memory.md R66, 30_encoding.md R90). -/
theorem windowInRange_shownCoord_iff (p : Params) {xs ys xe ye : Int} (hxs : 0 ≤ xs ∧ xs < 65536)
    (hxe : 0 ≤ xe ∧ xe < xs + 65536) (hys : 0 ≤ ys ∧ ys < 65536) (hye : 0 ≤ ye ∧ ye < ys + 65536) :
    windowInRange p (shownCoord xs p.columnOffset) (shownCoord xe p.columnOffset) (shownCoord ys p.lineOffset)
      (shownCoord ye p.lineOffset) = true ↔ WindowOnPanel p xs ys xe ye := by
  obtain ⟨hc0, hc⟩ := coord_bounds p.columnOffset
  obtain ⟨hl0, hl⟩ := coord_bounds p.lineOffset
  have hcol := axis_inRange_iff (n := coord p.columnCount) hxs.1 hxs.2 hxe.1 hxe.2 hc0 hc
  have hline := axis_inRange_iff (n := coord p.lineCount) hys.1 hys.2 hye.1 hye.2 hl0 hl
  simp only [windowInRange_iff, coord_shownCoord]
  constructor
  · rintro ⟨h1, h2, h3, h4, h5, h6⟩
    obtain ⟨hx, hx', hx''⟩ := hcol.1 ⟨h1, h2, h3⟩
    obtain ⟨hy, hy', hy''⟩ := hline.1 ⟨h4, h5, h6⟩
    exact ⟨hxs.1, hx, hx', hx'', hys.1, hy, hy', hy''⟩
  · rintro ⟨-, hx, hx', hx'', -, hy, hy', hy''⟩
    obtain ⟨h1, h2, h3⟩ := hcol.2 ⟨hx, hx', hx''⟩
    obtain ⟨h4, h5, h6⟩ := hline.2 ⟨hy, hy', hy''⟩
    exact ⟨h1, h2, h3, h4, h5, h6⟩

/-- A window of u16 bounds on the panel, the panel's coordinates fitting 16 bits with their offsets. -/
theorem windowOnPanel_of_offsetsFit {p : Params} (hfit : p.offsetsFit) {xs ys xe ye : Half} (hx : xs.toNat ≤ xe.toNat)
    (hx' : xe.toNat < p.columnCount.toNat) (hy : ys.toNat ≤ ye.toNat) (hy' : ye.toNat < p.lineCount.toNat) :
    WindowOnPanel p (coord xs) (coord ys) (coord xe) (coord ye) := by
  obtain ⟨hc, hl⟩ := hfit
  constructor <;> simp only [coord] <;> omega

/-- A window on the panel is emitted as the sums with the offsets, and the range check accepts it. -/
theorem WindowOnPanel.shown {p : Params} {xs ys xe ye : Int} (h : WindowOnPanel p xs ys xe ye) :
    windowInRange p (shownCoord xs p.columnOffset) (shownCoord xe p.columnOffset) (shownCoord ys p.lineOffset)
      (shownCoord ye p.lineOffset) = true ∧
    coord (shownCoord xs p.columnOffset) = xs + coord p.columnOffset ∧
    coord (shownCoord xe p.columnOffset) = xe + coord p.columnOffset ∧
    coord (shownCoord ys p.lineOffset) = ys + coord p.lineOffset ∧
    coord (shownCoord ye p.lineOffset) = ye + coord p.lineOffset := by
  obtain ⟨hleft, hcols, hright, hrfits, htop, hlines, hbottom, hbfits⟩ := id h
  obtain ⟨hc, -⟩ := coord_bounds p.columnOffset
  obtain ⟨hl, -⟩ := coord_bounds p.lineOffset
  exact ⟨(windowInRange_shownCoord_iff p ⟨hleft, by omega⟩ ⟨by omega, by omega⟩ ⟨htop, by omega⟩ ⟨by omega, by omega⟩).2 h,
    coord_shownCoord_of_fits hleft (by omega), coord_shownCoord_of_fits (by omega) hrfits,
    coord_shownCoord_of_fits htop (by omega), coord_shownCoord_of_fits (by omega) hbfits⟩

@[simp] theorem rasterPlace_zero (x y : Int) (w : Nat) : rasterPlace x y w 0 = (x, y) := by simp [rasterPlace]

/-- The size of a window on the panel is that of its bounds, whatever the offsets. -/
theorem WindowOnPanel.windowSize_filling {p : Params} {xs ys xe ye : Int} (h : WindowOnPanel p xs ys xe ye) (q : Panel) (k : Nat)
    (image : List Pixel) :
    windowSize (q.filling (shownCoord xs p.columnOffset) (shownCoord xe p.columnOffset) (shownCoord ys p.lineOffset)
      (shownCoord ye p.lineOffset) k image) = (xe - xs + 1) * (ye - ys + 1) := by
  obtain ⟨-, hxs, hxe, hys, hye⟩ := h.shown
  rw [windowSize_eq rfl rfl rfl rfl, hxs, hxe, hys, hye]
  ring

/-- A command whose effects are tokens, all accepted, delivers them and changes nothing else of the machine. -/
theorem exec_emits {i : Instr} {s : State} {ts : List Token} {q : Panel} (hs : s.accepting) (he : effectsOf i s = emits ts)
    (hquiet : s.quiet ts.length) (ho : observeAll s.params ts s.panel = .ok q) :
    exec i s = .next (s.delivered ts q) := by
  rw [exec_accepting hs, he, runEffects_emits _ ts q { s with busy := true } hquiet ho]
  exact congrArg Host.Outcome.next (endCommand_idle (s := s.delivered ts q) hs.1)

/-- Settles O25: the eleven tokens are delivered, and the last opens the window's empty stream. -/
theorem setWindowOpensTheStream : Obligations.SetWindowOpensTheStream := by
  intro s xs ys xe ye hs hquiet hsettled hp hfit hx hx' hy hy'
  have hw := windowOnPanel_of_offsetsFit hfit hx hx' hy hy'
  obtain ⟨hr, hxs, -, hys, -⟩ := hw.shown
  have hexec : exec (.setWindow xs ys xe ye) s = .next (s.delivered (windowTokens s.params _ _ _ _) _) :=
    exec_emits hs rfl hquiet (observeAll_windowTokens hp hsettled hr)
  rw [shownWindow_eq_windowTokens]
  refine ⟨_, hexec, rfl, rfl, rfl, hsettled.1, rfl, ?_, ?_, hw.windowSize_filling s.panel 0 s.panel.image⟩
  · simp [Panel.filling, hxs, add_comm]
  · simp [Panel.filling, hys, add_comm]

end Sys2Proof.Machine
end

section
/-! Pixels in an open stream (20_memory.md R67): one pixel at the pointer, and a run of pixels in raster order. -/

namespace Sys2Proof.Machine

/-- The first byte of a pixel is latched (20_memory.md R67). -/
theorem observe_data_latch (p : Params) {q : Panel} (hlost : q.lost = false) (hm : q.mode = .stream) (hhi : q.hi = none)
    (b : Byte) : observe p (dataToken b) q = .ok { q with hi := some b } := by
  simp [observe, hlost, dataToken, observeData, hm, hhi]

/-- The second byte of a pixel writes it (20_memory.md R67). -/
theorem observe_data_write (p : Params) {q : Panel} (hlost : q.lost = false) (hm : q.mode = .stream) (hi lo : Byte) :
    observe p (dataToken lo) { q with hi := some hi } = writePanelPixel p hi lo { q with hi := some hi } := by
  simp [observe, hlost, dataToken, observeData, hm]

/-- The second byte of a pixel past a full stream is a verdict (20_memory.md R67, R69). -/
theorem observe_data_overrun (p : Params) {q : Panel} (hlost : q.lost = false) (hm : q.mode = .stream)
    (hfull : q.count = windowSize q) (hi lo : Byte) :
    observe p (dataToken lo) { q with hi := some hi } = .error .panelOverrun :=
  (observe_data_write p hlost hm hi lo).trans (if_pos hfull)

/-- Data with no stream or range open is a verdict (20_memory.md R69). -/
theorem observe_data_idle (p : Params) {q : Panel} (hlost : q.lost = false) (hm : q.mode = .idle) (b : Byte) :
    observe p (dataToken b) q = .error .panelProtocol := by
  simp [observe, hlost, dataToken, observeData, hm]

@[simp] theorem hiByte_append_loByte (c : Half) : hiByte c ++ loByte c = c := be16_bytes c

/-- A pixel in an open stream that is not full is written at the pointer, which moves on (20_memory.md R67). -/
theorem observeAll_pixelTokens (p : Params) {q : Panel} (hlost : q.lost = false) (hm : q.mode = .stream)
    (hhi : q.hi = none) (hfull : q.count ≠ windowSize q) (c : Half) :
    observeAll p (pixelTokens c) q =
      .ok { q with
        image := imageSet q.image (q.px - coord p.columnOffset, q.py - coord p.lineOffset) c
        count := q.count + 1
        px := (advancePointer q).1
        py := (advancePointer q).2 } := by
  have hsize : windowSize { q with hi := some (hiByte c) } = windowSize q := rfl
  rw [pixelTokens, halfTokens, observeAll, observe_data_latch p hlost hm hhi]
  simp only [observeAll, observe_data_write p hlost hm, writePanelPixel, hsize, if_neg hfull, hiByte_append_loByte, hhi]
  rfl

/-- Raster order (00_scope.md R12): right, and from the window's last column to the next line's first. -/
theorem rasterPlace_succ (x y : Int) {w : Nat} (hw : 0 < w) (k : Nat) :
    rasterPlace x y w (k + 1) =
      if x + (w : Int) ≤ (rasterPlace x y w k).1 + 1 then (x, (rasterPlace x y w k).2 + 1)
      else ((rasterPlace x y w k).1 + 1, (rasterPlace x y w k).2) := by
  have hlt := Nat.mod_lt k hw
  have hk := Nat.div_add_mod k w
  by_cases hlast : k % w + 1 = w
  · obtain ⟨hdiv, hmod⟩ := (Nat.div_mod_unique (a := k + 1) (c := 0) (d := k / w + 1) hw).2
      ⟨by rw [Nat.mul_add]; omega, hw⟩
    rw [if_pos (by simp only [rasterPlace]; omega)]
    simp only [rasterPlace, hdiv, hmod]
    push_cast
    simp [add_assoc]
  · obtain ⟨hdiv, hmod⟩ := (Nat.div_mod_unique (a := k + 1) (c := k % w + 1) (d := k / w) hw).2 ⟨by omega, by omega⟩
    rw [if_neg (by simp only [rasterPlace]; omega)]
    simp only [rasterPlace, hdiv, hmod]
    push_cast
    simp [add_assoc]

/-- Different numbers are different places. -/
theorem rasterPlace_injective (x y : Int) (w : Nat) : Function.Injective (rasterPlace x y w) := by
  intro j k h
  simp only [rasterPlace, Prod.mk.injEq, add_right_inj, Nat.cast_inj] at h
  obtain ⟨hmod, hdiv⟩ := h
  rw [← Nat.div_add_mod j w, ← Nat.div_add_mod k w, hmod, hdiv]

theorem rangeSize_pos (a b : Half) : 0 < rangeSize a b := Nat.succ_pos _

theorem rangeSize_cast {a b : Half} (h : coord a ≤ coord b) : (rangeSize a b : Int) = coord b - coord a + 1 := by
  simp only [coord, rangeSize] at h ⊢
  omega

/-- The pointer after a pixel is the next place in raster order. -/
theorem advancePointer_filling (q : Panel) {cs ce : Half} (hc : coord cs ≤ coord ce) (rs re : Half) (k : Nat)
    (image : List Pixel) :
    advancePointer (q.filling cs ce rs re k image) =
      rasterPlace (coord cs) (coord rs) (rangeSize cs ce) (k + 1) := by
  have hcond : coord ce < (rasterPlace (coord cs) (coord rs) (rangeSize cs ce) k).1 + 1 ↔
      coord cs + (rangeSize cs ce : Int) ≤ (rasterPlace (coord cs) (coord rs) (rangeSize cs ce) k).1 + 1 := by
    rw [rangeSize_cast hc]
    omega
  rw [rasterPlace_succ _ _ (rangeSize_pos cs ce)]
  simp only [advancePointer, Panel.filling, Option.getD_some, gt_iff_lt, hcond]

/-- The pixels `colors` written at the places `k`, `k + 1`, … of an enumeration. -/
def paint (place : Nat → Int × Int) : Nat → List Half → List Pixel → List Pixel
  | _, [], image => image
  | k, c :: colors, image => paint place (k + 1) colors (imageSet image (place k) c)

/-- A place that none of the pixels is written at is as before. -/
theorem imageGet_paint_of_ne (place : Nat → Int × Int) (k : Nat) (colors : List Half) (image : List Pixel) (xy : Int × Int)
    (h : ∀ j < colors.length, xy ≠ place (k + j)) : imageGet (paint place k colors image) xy = imageGet image xy := by
  induction colors generalizing k image with
  | nil => rfl
  | cons c colors ih =>
    have hfirst : xy ≠ place k := h 0 (Nat.succ_pos _)
    have hrest : ∀ j < colors.length, xy ≠ place (k + 1 + j) := fun j hj => by
      have := h (j + 1) (Nat.succ_lt_succ hj)
      rwa [add_right_comm, add_assoc]
    rw [paint, ih _ _ hrest, imageGet_imageSet, if_neg hfirst]

/-- Where the places differ, each pixel is shown at its own. -/
theorem imageGet_paint {place : Nat → Int × Int} (hinj : Function.Injective place) (k : Nat) (colors : List Half)
    (image : List Pixel) {j : Nat} (hj : j < colors.length) :
    imageGet (paint place k colors image) (place (k + j)) = colors[j]? := by
  induction colors generalizing k image j with
  | nil => simp at hj
  | cons c colors ih =>
    rw [paint]
    cases j with
    | zero =>
      have hrest : ∀ j < colors.length, place (k + 0) ≠ place (k + 1 + j) := fun j _ h => by
        have := hinj h
        omega
      rw [imageGet_paint_of_ne _ _ _ _ _ hrest, imageGet_imageSet, if_pos (by rw [add_zero]),
        List.getElem?_cons_zero]
    | succ j =>
      rw [← add_assoc, add_right_comm, ih (k + 1) _ (Nat.lt_of_succ_lt_succ hj), List.getElem?_cons_succ]

/-- How many pixels a window's stream holds. -/
theorem windowSize_filling_rangeSize (q : Panel) {cs ce rs re : Half} (hc : coord cs ≤ coord ce) (hr : coord rs ≤ coord re)
    (k : Nat) (image : List Pixel) :
    windowSize (q.filling cs ce rs re k image) = (rangeSize cs ce * rangeSize rs re : Nat) := by
  rw [windowSize_eq rfl rfl rfl rfl, Nat.cast_mul, rangeSize_cast hc, rangeSize_cast hr]

/-- A run of pixels that the window still holds is written in raster order (20_memory.md R67). -/
theorem observeAll_pixels (p : Params) {q : Panel} (hlost : q.lost = false) {cs ce rs re : Half} (hc : coord cs ≤ coord ce)
    (hr : coord rs ≤ coord re) (k : Nat) (colors : List Half) (image : List Pixel)
    (hlen : k + colors.length ≤ rangeSize cs ce * rangeSize rs re) :
    observeAll p (colors.flatMap pixelTokens) (q.filling cs ce rs re k image) =
      .ok (q.filling cs ce rs re (k + colors.length)
        (paint (rasterPlace (coord cs - coord p.columnOffset) (coord rs - coord p.lineOffset) (rangeSize cs ce)) k colors
          image)) := by
  induction colors generalizing k image with
  | nil => rfl
  | cons c colors ih =>
    rw [List.length_cons] at hlen ⊢
    have hroom : (q.filling cs ce rs re k image).count ≠ windowSize (q.filling cs ce rs re k image) := by
      rw [windowSize_filling_rangeSize q hc hr, Panel.filling, ne_eq, Nat.cast_inj]
      omega
    have hplace : (((q.filling cs ce rs re k image).px - coord p.columnOffset,
        (q.filling cs ce rs re k image).py - coord p.lineOffset) : Int × Int) =
        rasterPlace (coord cs - coord p.columnOffset) (coord rs - coord p.lineOffset) (rangeSize cs ce) k := by
      simp only [Panel.filling, rasterPlace, Prod.mk.injEq]
      constructor <;> ring
    rw [List.flatMap_cons, observeAll_append, observeAll_pixelTokens p (q := q.filling cs ce rs re k image) hlost rfl rfl hroom c, hplace,
      advancePointer_filling q hc, paint]
    have hih := ih (k + 1) (imageSet image
      (rasterPlace (coord cs - coord p.columnOffset) (coord rs - coord p.lineOffset) (rangeSize cs ce) k) c) (by omega)
    rw [show k + (colors.length + 1) = k + 1 + colors.length by omega, ← hih]
    simp [Panel.filling]

end Sys2Proof.Machine
end

section
/-! Windows filled with pixels, and WRITE_PIXEL in any stream (20_memory.md R67, R69; 40_window_writer.md R114, R116). -/

namespace Sys2Proof.Machine

/-- A window on the panel followed by no more pixels than it holds shows them in raster order (20_memory.md R66, R67). -/
theorem observeAll_window_pixels {p : Params} (hp : p.distinctCommands) {q : Panel} (hq : q.settled) {xs ys xe ye : Int}
    (hon : WindowOnPanel p xs ys xe ye) {w h : Nat} (hw : (w : Int) = xe - xs + 1) (hh : (h : Int) = ye - ys + 1)
    (colors : List Half) (hlen : colors.length ≤ w * h) :
    observeAll p (windowTokens p xs ys xe ye ++ colors.flatMap pixelTokens) q =
      .ok (q.filling (shownCoord xs p.columnOffset) (shownCoord xe p.columnOffset) (shownCoord ys p.lineOffset)
        (shownCoord ye p.lineOffset) colors.length (paint (rasterPlace xs ys w) 0 colors q.image)) := by
  obtain ⟨hr, hxs, hxe, hys, hye⟩ := hon.shown
  have hc : coord (shownCoord xs p.columnOffset) ≤ coord (shownCoord xe p.columnOffset) := by
    rw [hxs, hxe]; exact add_le_add_left hon.columns _
  have hl : coord (shownCoord ys p.lineOffset) ≤ coord (shownCoord ye p.lineOffset) := by
    rw [hys, hye]; exact add_le_add_left hon.lines _
  have hwidth : rangeSize (shownCoord xs p.columnOffset) (shownCoord xe p.columnOffset) = w := by
    have := rangeSize_cast hc
    omega
  have hheight : rangeSize (shownCoord ys p.lineOffset) (shownCoord ye p.lineOffset) = h := by
    have := rangeSize_cast hl
    omega
  rw [observeAll_append, observeAll_windowTokens hp hq hr]
  refine (observeAll_pixels p hq.1 hc hl 0 colors q.image (by rw [hwidth, hheight, zero_add]; exact hlen)).trans ?_
  rw [hwidth, hxs, hys, zero_add, add_sub_cancel_right, add_sub_cancel_right]

/-- Every pixel of a window lies inside it. -/
theorem rasterPlace_not_outside {x y xe ye : Int} {w h j : Nat} (hw : (w : Int) = xe - x + 1) (hh : (h : Int) = ye - y + 1)
    (hj : j < w * h) : ¬ outside (rasterPlace x y w j).1 (rasterPlace x y w j).2 x y xe ye := by
  have hpos : 0 < w := by
    by_contra hz
    simp [Nat.eq_zero_of_not_pos hz] at hj
  have hcol := Nat.mod_lt j hpos
  have hrow := Nat.div_lt_of_lt_mul hj
  have hnonneg : (0 : Int) ≤ (j / w : Nat) := Int.natCast_nonneg _
  simp only [rasterPlace]
  omega

/-- Settles O53: the window's stream takes exactly its pixels, at its places in raster order. -/
theorem filledWindowShowsItsPixels : Obligations.FilledWindowShowsItsPixels := by
  intro p q xs ys xe ye colors hq hp hfit hx hx' hy hy' hlen
  have hon := windowOnPanel_of_offsetsFit hfit hx hx' hy hy'
  have hw : ((xe.toNat - xs.toNat + 1 : Nat) : Int) = coord xe - coord xs + 1 := by simp only [coord]; omega
  have hh : ((ye.toNat - ys.toNat + 1 : Nat) : Int) = coord ye - coord ys + 1 := by simp only [coord]; omega
  have hshown : shownHalf = pixelTokens := funext fun c => (halfTokens_eq_shownHalf c).symm
  have hsize := hon.windowSize_filling q colors.length (paint (rasterPlace (coord xs) (coord ys) (xe.toNat - xs.toNat + 1))
    0 colors q.image)
  rw [← hw, ← hh, ← Nat.cast_mul, ← hlen] at hsize
  rw [shownWindow_eq_windowTokens, hshown]
  refine ⟨_, observeAll_window_pixels hp hq hon hw hh colors hlen.le, ⟨rfl, hsize.symm, rfl⟩, hq.1, fun j hj => ?_,
    fun px py hout => imageGet_paint_of_ne _ 0 colors q.image (px, py) fun j hj hplace => ?_⟩
  · have := imageGet_paint (rasterPlace_injective (coord xs) (coord ys) (xe.toNat - xs.toNat + 1)) 0 colors q.image hj
    rwa [zero_add] at this
  · refine rasterPlace_not_outside hw hh (hlen ▸ hj) ?_
    rw [zero_add] at hplace
    rwa [← hplace]

/-- These effects are register writes only. -/
def WritesOnly (es : List Effect) : Prop := ∀ e ∈ es, ∃ w, e = .write w

theorem WritesOnly.effectTokens_eq {es : List Effect} (h : WritesOnly es) : effectTokens es = [] := by
  refine List.filterMap_eq_nil_iff.2 fun e he => ?_
  obtain ⟨w, rfl⟩ := h e he
  rfl

theorem writesOnly_nil : WritesOnly [] := fun _ h => absurd h List.not_mem_nil

theorem effectTokens_append (es es' : List Effect) : effectTokens (es ++ es') = effectTokens es ++ effectTokens es' :=
  List.filterMap_append

@[simp] theorem effectTokens_emits (ts : List Token) : effectTokens (emits ts) = ts := by
  induction ts with
  | nil => rfl
  | cons t ts ih => rw [emits_cons, effectTokens_emit, ih]

theorem applyWrites_append (es es' : List Effect) (s : State) :
    applyWrites (es ++ es') s = applyWrites es' (applyWrites es s) := by
  induction es generalizing s with
  | nil => rfl
  | cons e es ih => cases e <;> exact ih _

@[simp] theorem applyWrites_emits (ts : List Token) (s : State) : applyWrites (emits ts) s = s := by
  induction ts with
  | nil => rfl
  | cons t ts ih => exact ih

/-- A command whose next token, after some writes and accepted tokens, the observer rejects: it ends there in the observer's
verdict, with no fault (00_scope.md R11, 60_exceptions.md R246). -/
theorem exec_rejected {i : Instr} {s : State} {pre post : List Effect} {ts : List Token} {t : Token} {r : Verdict}
    {q : Panel} (hs : s.accepting) (hpre : WritesOnly pre) (he : effectsOf i s = pre ++ emits (ts ++ [t]) ++ post)
    (hok : s.answersOk (ts.length + 1)) (ho : observeAll s.params ts s.panel = .ok q)
    (hr : observe s.params t q = .error r) :
    ∃ u, exec i s = .next u ∧ u.undef = some r ∧ u.fault = false ∧ u.panel = q ∧ u.cursor = (applyWrites pre s).cursor ∧
      u.trace = s.trace ++ (ts ++ [t]).map (Offer.mk · .ok) := by
  have htokens : effectTokens (pre ++ emits ts) = ts := by simp [effectTokens_append, hpre.effectTokens_eq]
  have hwrites : applyWrites (pre ++ emits ts) s = applyWrites pre s := by simp [applyWrites_append]
  have hsplit : effectsOf i s = (pre ++ emits ts) ++ .emit t :: post := by simp [he, emits_append]
  have hverdict : ∀ r', Effect.verdict r' ∉ pre ++ emits ts := by
    intro r' hmem
    rcases List.mem_append.1 hmem with hmem | hmem
    · obtain ⟨w, hw⟩ := hpre _ hmem
      cases hw
    · obtain ⟨t', -, ht'⟩ := mem_emits hmem
      cases ht'
  obtain ⟨-, -, hrejected⟩ := commandsComplete i s hs
  have hexec := hrejected _ post t r q hsplit hverdict (by rwa [htokens]) (by rwa [htokens]) hr
  rw [htokens, hwrites] at hexec
  obtain ⟨-, -, hfault, htrace, -⟩ := applyWrites_keep pre s
  obtain ⟨-, hnofault, -⟩ := hs
  exact ⟨_, hexec, rfl, hfault.trans hnofault, rfl, rfl, congrArg (· ++ _) htrace⟩

/-- Settles O28: the two bytes are latched and written; a full stream rejects the second, IDLE the first. -/
theorem writePixelAtTheObserver : Obligations.WritePixelAtTheObserver := by
  intro s c cs ce hs hquiet hlost
  obtain ⟨⟨hundef, -, -⟩, -, -⟩ := id hs
  refine ⟨fun hm hhi hcs hce hfull => ?_, fun hm hhi hfull => ?_, fun hm => ?_⟩
  · have ho := observeAll_pixelTokens s.params hlost hm hhi hfull c
    refine ⟨_, exec_emits hs rfl hquiet ho, hundef, hm, hhi, rfl, ?_, fun x y => ?_⟩
    · simp [advancePointer, hcs, hce]
    · simp [panelPixel, hlost, imageGet_imageSet]
  · have hlatch : observeAll s.params [dataToken (hiByte c)] s.panel = .ok { s.panel with hi := some (hiByte c) } := by
      simp only [observeAll, observe_data_latch s.params hlost hm hhi]
    obtain ⟨u, hexec, hundef, -, -, -, htrace⟩ := exec_rejected (i := .writePixel c)
      (ts := [dataToken (hiByte c)]) (post := []) hs writesOnly_nil rfl hquiet.1 hlatch
      (observe_data_overrun s.params hlost hm hfull (hiByte c) (loByte c))
    exact ⟨u, hexec, hundef, by rw [htrace, ← halfTokens_eq_shownHalf]; rfl⟩
  · obtain ⟨u, hexec, hundef, -, -, -, htrace⟩ := exec_rejected (i := .writePixel c) (ts := []) hs writesOnly_nil
      (post := emits [dataToken (loByte c)]) rfl (quiet_le hquiet (by decide)).1 rfl
      (observe_data_idle s.params hlost hm (hiByte c))
    have hfirst := (List.cons.inj (halfTokens_eq_shownHalf c)).1
    exact ⟨u, hexec, hundef, by rw [htrace, ← hfirst]; rfl⟩

end Sys2Proof.Machine
end

section
/-! Windows off the panel (20_memory.md R66; 40 R113; 41 R141, R146; 42 R187, R192; 43 R230): the last token of such a window
is rejected, whichever command offers it. -/

namespace Sys2Proof.Machine

/-- A command that offers a window off the panel, after some writes and accepted tokens: all eleven tokens of it are offered,
and the last is `undefined(PANEL_WINDOW)` (20_memory.md R66). -/
theorem exec_window_rejected {i : Instr} {s : State} {pre post : List Effect} {ts : List Token} {q : Panel}
    {xs ys xe ye : Int} (hs : s.accepting) (hp : s.params.distinctCommands) (hpre : WritesOnly pre)
    (he : effectsOf i s = pre ++ emits (ts ++ windowTokens s.params xs ys xe ye) ++ post)
    (hok : s.answersOk (ts.length + 11)) (ho : observeAll s.params ts s.panel = .ok q) (hq : q.settled)
    (hr : windowInRange s.params (shownCoord xs s.params.columnOffset) (shownCoord xe s.params.columnOffset)
      (shownCoord ys s.params.lineOffset) (shownCoord ye s.params.lineOffset) ≠ true) :
    ∃ u, exec i s = .next u ∧ u.undef = some .panelWindow ∧ u.fault = false ∧ u.cursor = (applyWrites pre s).cursor ∧
      u.trace = s.trace ++ (ts ++ windowTokens s.params xs ys xe ye).map (Offer.mk · .ok) := by
  rw [windowTokens_eq_boundTokens, ← List.append_assoc] at he ⊢
  generalize shownCoord xs s.params.columnOffset = cs, shownCoord xe s.params.columnOffset = ce,
    shownCoord ys s.params.lineOffset = rs, shownCoord ye s.params.lineOffset = re at he hr ⊢
  have hbounds : observeAll s.params (ts ++ boundTokens s.params cs ce rs re) s.panel = .ok (q.bounded cs ce rs re) := by
    rw [observeAll_append, ho]
    exact observeAll_boundTokens hp hq cs ce rs re
  have hlast := (observe_ramwr hp hq.1 cs ce rs re).trans (if_neg hr)
  obtain ⟨u, hexec, hundef, hfault, -, hcursor, htrace⟩ :=
    exec_rejected hs hpre he (by rw [List.length_append]; exact hok) hbounds hlast
  exact ⟨u, hexec, hundef, hfault, hcursor, htrace⟩

/-- A point's window is accepted exactly where the place it is taken for is on the panel. -/
theorem windowInRange_point_iff (p : Params) (xy : Int × Int) :
    windowInRange p (shownCoord xy.1 p.columnOffset) (shownCoord xy.1 p.columnOffset) (shownCoord xy.2 p.lineOffset)
      (shownCoord xy.2 p.lineOffset) = true ↔ p.onPanel (Panel.place p xy) := by
  simp only [windowInRange_iff, coord_shownCoord, Panel.place]
  omega

/-- One Plot on the panel writes its pixel at the place it is taken for, and leaves a full stream of one pixel. -/
theorem observeAll_plotTokens {p : Params} (hp : p.distinctCommands) {q : Panel} (hq : q.settled) (c : Half)
    {xy : Int × Int} (hon : p.onPanel (Panel.place p xy)) :
    observeAll p (plotTokens p c xy) q =
      .ok (q.filling (shownCoord xy.1 p.columnOffset) (shownCoord xy.1 p.columnOffset) (shownCoord xy.2 p.lineOffset)
        (shownCoord xy.2 p.lineOffset) 1 (imageSet q.image (Panel.place p xy) c)) := by
  have hpixel := observeAll_pixels p hq.1 (le_refl (coord (shownCoord xy.1 p.columnOffset)))
    (le_refl (coord (shownCoord xy.2 p.lineOffset))) 0 [c] q.image (by simp [rangeSize])
  rw [plotTokens, observeAll_append, observeAll_windowTokens hp hq ((windowInRange_point_iff p xy).2 hon)]
  simpa [paint, coord_shownCoord, Panel.place] using hpixel

/-- A stream that holds all its window's pixels can take a command. -/
theorem filling_settled {q : Panel} (hlost : q.lost = false) {cs ce rs re : Half} (hc : coord cs ≤ coord ce)
    (hr : coord rs ≤ coord re) {k : Nat} (hk : rangeSize cs ce * rangeSize rs re ≤ k) (image : List Pixel) :
    (q.filling cs ce rs re k image).settled := by
  refine ⟨hlost, .inr ⟨rfl, ?_, rfl⟩⟩
  rw [windowSize_filling_rangeSize q hc hr]
  exact Int.ofNat_le.2 hk

/-- Plots on the panel are accepted, and the observer can take a command after them. -/
theorem observeAll_plots {p : Params} (hp : p.distinctCommands) (c : Half) (points : List (Int × Int))
    (hon : ∀ xy ∈ points, p.onPanel (Panel.place p xy)) {q : Panel} (hq : q.settled) :
    ∃ q', observeAll p (points.flatMap (plotTokens p c)) q = .ok q' ∧ q'.settled := by
  induction points generalizing q with
  | nil => exact ⟨q, rfl, hq⟩
  | cons xy points ih =>
    have hfull := filling_settled hq.1 (le_refl (coord (shownCoord xy.1 p.columnOffset)))
      (le_refl (coord (shownCoord xy.2 p.lineOffset))) (k := 1) (by simp [rangeSize])
      (imageSet q.image (Panel.place p xy) c)
    obtain ⟨q', ho, hq'⟩ := ih (fun ab hab => hon ab (.tail _ hab)) hfull
    refine ⟨q', ?_, hq'⟩
    rw [List.flatMap_cons, observeAll_append, observeAll_plotTokens hp hq c (hon xy (.head _))]
    exact ho

/-- A command that plots points ends at the first that is off the panel, at its window (41_rasterizer.md R141, R146). -/
theorem exec_plots_rejected {i : Instr} {s : State} {c : Half} {before after : List (Int × Int)} {xy : Int × Int}
    (hs : s.accepting) (hq : s.panel.settled) (hp : s.params.distinctCommands)
    (he : effectsOf i s = plots s.params c (before ++ xy :: after)) (hok : s.answersOk (13 * before.length + 11))
    (hbefore : ∀ ab ∈ before, s.params.onPanel (Panel.place s.params ab))
    (hxy : ¬ s.params.onPanel (Panel.place s.params xy)) :
    ∃ t, exec i s = .next t ∧ t.undef = some .panelWindow ∧ t.fault = false ∧
      t.trace = s.trace ++ (before.flatMap (plotTokens s.params c) ++
        windowTokens s.params xy.1 xy.2 xy.1 xy.2).map (Offer.mk · .ok) := by
  obtain ⟨q, ho, hsettled⟩ := observeAll_plots hp c before hbefore hq
  have hsplit : effectsOf i s = [] ++ emits (before.flatMap (plotTokens s.params c) ++
      windowTokens s.params xy.1 xy.2 xy.1 xy.2) ++ emits (pixelTokens c ++ after.flatMap (plotTokens s.params c)) := by
    rw [he, plots, List.nil_append, ← emits_append]
    simp [plotTokens]
  rw [← plots_length s.params c before] at hok
  obtain ⟨u, hexec, hundef, hfault, -, htrace⟩ := exec_window_rejected hs hp writesOnly_nil hsplit hok ho hsettled
    (mt (windowInRange_point_iff s.params xy).1 hxy)
  exact ⟨u, hexec, hundef, hfault, htrace⟩

/-- A command whose first tokens, after some writes, are a box off the panel: `w` columns and `h` lines from a u16 place. -/
theorem exec_box_rejected {i : Instr} {s : State} {pre post : List Effect} {x y : Half} {w h : Nat} {xe ye : Int}
    (hs : s.accepting) (hq : s.panel.settled) (hp : s.params.distinctCommands) (hpre : WritesOnly pre)
    (he : effectsOf i s = pre ++ emits (windowTokens s.params (coord x) (coord y) xe ye) ++ post)
    (hok : s.answersOk 11) (hxe : xe = coord x + w - 1) (hye : ye = coord y + h - 1) (hw : 0 < w ∧ w < 65536)
    (hh : 0 < h ∧ h < 65536)
    (hoff : s.params.columnCount.toNat < x.toNat + w ∨ s.params.lineCount.toNat < y.toNat + h ∨
      65536 < x.toNat + w + s.params.columnOffset.toNat ∨ 65536 < y.toNat + h + s.params.lineOffset.toNat) :
    ∃ u, exec i s = .next u ∧ u.undef = some .panelWindow ∧ u.fault = false ∧ u.cursor = (applyWrites pre s).cursor ∧
      u.trace = s.trace ++ (windowTokens s.params (coord x) (coord y) xe ye).map (Offer.mk · .ok) := by
  have hx := coord_bounds x
  have hy := coord_bounds y
  refine exec_window_rejected (ts := []) hs hp hpre he hok rfl hq
    (mt (windowInRange_shownCoord_iff s.params hx (by omega) hy (by omega)).1 fun hon => ?_)
  have hright := hon.right
  have hrfits := hon.rightFits
  have hbottom := hon.bottom
  have hbfits := hon.bottomFits
  simp only [coord] at hxe hye hright hrfits hbottom hbfits
  omega

end Sys2Proof.Machine
end

section
/-! Where text and CJK commands open their windows: the read of source memory, the place of a printable character, the plotted
bits of an entry (20_memory.md R52; 42_glyph_text.md R181, R186, R187, R190, R192). -/

namespace Sys2Proof.Machine

/-- A read inside source memory gives its bytes in increasing order (20_memory.md R52). -/
theorem memRead_of_le {s : State} {addr n : Nat} (h : addr + n ≤ s.params.memSize) :
    memRead s addr n = some ((List.range n).map fun k => readByte s.mem (addr + k)) :=
  if_neg (not_lt.2 h)

theorem fontValid_iff (s : State) : fontValid s = true ↔ fontLegal s := by
  simp only [fontValid, Bool.and_eq_true, decide_eq_true_eq, and_assoc]
  rfl

theorem printable_iff (ch : Byte) : printable ch = true ↔ 32 ≤ ch.toNat ∧ ch.toNat ≤ 127 := by simp [printable]

/-- The newline codepoint is not printable (42_glyph_text.md R187). -/
theorem ne_newline_of_printable {ch : Byte} (h : printable ch = true) : ch ≠ newline := by
  rintro rfl
  exact absurd h (by decide)

/-- A printable character's glyph in source memory is read. -/
theorem glyphBytes_of_glyphInMemory {s : State} {ch : Byte} (h : glyphInMemory s ch) :
    ∃ g, glyphBytes s ch = some g :=
  ⟨_, memRead_of_le h⟩

/-- The line advance before a printable character that would pass the panel's right edge (42_glyph_text.md R187). -/
def wrapEffects (s : State) (x y : Half) : List Effect := if wraps s x then lineAdvance s y else []

/-- A printable character whose glyph is in memory: its line advance, its window, its pixels and its cursor advance. -/
theorem putCharEffects_printable {s : State} {ch : Byte} (hch : printable ch = true) (hglyph : glyphInMemory s ch)
    (x y : Half) : ∃ post, putCharEffects s x y ch =
      wrapEffects s x y ++ emits (windowTokens s.params (coord (drawAt s x y).1) (coord (drawAt s x y).2)
        (coord (drawAt s x y).1 + s.fontW.toNat - 1) (coord (drawAt s x y).2 + s.fontH.toNat - 1)) ++ post := by
  obtain ⟨g, hg⟩ := glyphBytes_of_glyphInMemory hglyph
  refine ⟨emits ((glyphColors s g).flatMap pixelTokens) ++ [.write (.curX (columnAfter s (drawAt s x y).1))], ?_⟩
  simp only [putCharEffects, if_neg (ne_newline_of_printable hch), if_pos hch, hg, wrapEffects, drawGlyph,
    List.append_assoc]

theorem writesOnly_lineAdvance (s : State) (y : Half) : WritesOnly (lineAdvance s y) := by
  simp [WritesOnly, lineAdvance]

theorem writesOnly_wrapEffects (s : State) (x y : Half) : WritesOnly (wrapEffects s x y) := by
  unfold wrapEffects
  split
  · exact writesOnly_lineAdvance s y
  · exact writesOnly_nil

/-- The line advance leaves the cursor where the character is drawn (42_glyph_text.md R187). -/
theorem applyWrites_wrapEffects_cursor (s : State) :
    (applyWrites (wrapEffects s s.curX s.curY) s).cursor = drawAt s s.curX s.curY := by
  unfold wrapEffects drawAt
  split <;> rfl

/-- The line advance from the cursor, as R186 writes it. -/
theorem advanceLine_eq_nextLine (s : State) : advanceLine s s.curY = nextLine s := by
  have hsum : BitVec.ofNat 16 (s.curY.toNat + s.fontH.toNat + s.curLspace.toNat) =
      s.curY + BitVec.setWidth 16 s.fontH + s.curLspace := by
    apply BitVec.eq_of_toNat_eq
    simp
  simp only [advanceLine, nextLine, hsum, gt_iff_lt,
    show s.curY.toNat + s.fontH.toNat + s.curLspace.toNat + s.fontH.toNat =
      s.curY.toNat + 2 * s.fontH.toNat + s.curLspace.toNat by omega]

/-- Where a printable character is drawn from the cursor, as R187 writes it. -/
theorem drawAt_cursor (s : State) : drawAt s s.curX s.curY = (drawnColumn s, drawnLine s) := by
  simp only [drawAt, wraps, decide_eq_true_eq, drawnColumn, drawnLine, advanceLine_eq_nextLine]
  split <;> rfl

/-- The bits of an entry that are plotted, read from source memory in the sweep order of R192. -/
theorem cjkPoints_eq (s : State) (addr : Nat) (x y : Int) :
    cjkPoints ((List.range 32).map fun k => readByte s.mem (addr + k)) x y =
      (List.range 32).flatMap fun k => (List.range 8).filterMap fun b =>
        if (readByte s.mem (addr + k)).getLsbD b then some (x + (k % 16 : Nat), y + (8 * (k / 16) + b : Nat)) else none := by
  refine List.flatMap_congr fun k hk => ?_
  have hbyte : ((List.range 32).map fun k => readByte s.mem (addr + k)).getD k 0 = readByte s.mem (addr + k) := by
    simp [List.getD, List.getElem?_map, List.getElem?_range (List.mem_range.1 hk)]
  simp only [cjkBit, hbyte, cjkPixelPos]
  rw [← List.filterMap_eq_map, List.filterMap_filter]
  rfl

/-- DRAW_CJK on an entry in memory offers the entry's tokens (42_glyph_text.md R192). -/
theorem effectsOf_drawCjk {s : State} {x y index c : Half} (hindex : index.toNat < s.cjkCount.toNat)
    (hmem : s.cjkBase.toNat + 32 * index.toNat + 32 ≤ s.params.memSize) :
    effectsOf (.drawCjk x y index c) s = emits (cjkTokens s.params ((List.range 32).map fun k =>
      readByte s.mem (s.cjkBase.toNat + 32 * index.toNat + k)) x y c) := by
  simp only [effectsOf, drawCjkEffects, if_neg (not_le.2 hindex), cjkEntry, memRead_of_le hmem]

/-- In TRANSPARENT mode DRAW_CJK plots the entry's bits (42_glyph_text.md R192). -/
theorem effectsOf_drawCjk_transparent {s : State} {x y index c : Half} (hindex : index.toNat < s.cjkCount.toNat)
    (hmem : s.cjkBase.toNat + 32 * index.toNat + 32 ≤ s.params.memSize) (hmode : s.params.cjkBg = .transparent) :
    effectsOf (.drawCjk x y index c) s = plots s.params c (cjkPoints ((List.range 32).map fun k =>
      readByte s.mem (s.cjkBase.toNat + 32 * index.toNat + k)) (coord x) (coord y)) := by
  rw [effectsOf_drawCjk hindex hmem, cjkTokens, hmode, plots]

/-- BLIT on an image in memory: its window and its bytes (43_image_blit.md R230). -/
theorem effectsOf_blit {s : State} {x y w h : Half} {addr : Word} (hw : w ≠ 0) (hh : h ≠ 0)
    (hmem : addr.toNat + 2 * w.toNat * h.toNat ≤ s.params.memSize) :
    ∃ bytes, effectsOf (.blit x y w h addr) s =
      emits (windowTokens s.params (coord x) (coord y) (coord x + coord w - 1) (coord y + coord h - 1)) ++
        emits bytes := by
  refine ⟨((List.range (2 * w.toNat * h.toNat)).map fun k => readByte s.mem (addr.toNat + k)).map dataToken, ?_⟩
  simp only [effectsOf, blitEffects, hw, hh, or_self, if_false, memRead_of_le hmem, emits_append]

/-- Settles O26: each command's window off the panel is rejected at its last token; a plotting command gets as far as the first
point off the panel. -/
theorem offPanelWindowsAreVerdicts : Obligations.OffPanelWindowsAreVerdicts := by
  intro s hs hq hp
  refine ⟨fun xs ys xe ye hok hoff => ?_, fun i c before after xy hplot hok hbefore hxy => ?_,
    fun x y w h addr hw hh hmem hok hoff => ?_, fun ch hfont hlo hhi hglyph hok hoff => ?_,
    fun x y index c hindex hmem => ⟨fun hmode hok hoff => ?_, fun before after xy hmode hpoints hok hbefore hxy => ?_⟩⟩
  · have hxs := coord_bounds xs
    have hys := coord_bounds ys
    have hxe := coord_bounds xe
    have hye := coord_bounds ye
    have hnot : ¬ WindowOnPanel s.params (coord xs) (coord ys) (coord xe) (coord ye) := by
      rintro ⟨-, hcols, hright, hrfits, -, hlines, hbottom, hbfits⟩
      simp only [coord] at hcols hright hrfits hlines hbottom hbfits
      omega
    have hr := mt (windowInRange_shownCoord_iff s.params hxs ⟨hxe.1, by omega⟩ hys ⟨hye.1, by omega⟩).1 hnot
    obtain ⟨u, hexec, hundef, hfault, -, htrace⟩ :=
      exec_window_rejected (i := .setWindow xs ys xe ye) (ts := []) (post := []) hs hp writesOnly_nil
        (List.append_nil _).symm hok rfl hq hr
    rw [shownWindow_eq_windowTokens]
    exact ⟨u, hexec, hundef, hfault, htrace⟩
  · exact exec_plots_rejected hs hq hp (effectsOf_rasterPlot hplot s) hok hbefore hxy
  · obtain ⟨bytes, he⟩ := effectsOf_blit (x := x) (y := y) hw hh hmem
    obtain ⟨u, hexec, hundef, hfault, -, htrace⟩ := exec_box_rejected (w := w.toNat) (h := h.toNat) hs hq hp writesOnly_nil
      he hok rfl rfl ⟨by bv_omega, w.isLt⟩ ⟨by bv_omega, h.isLt⟩ hoff
    exact ⟨u, hexec, hundef, hfault, htrace⟩
  · have hprint := (printable_iff ch).2 ⟨hlo, hhi⟩
    obtain ⟨post, he⟩ := putCharEffects_printable hprint hglyph s.curX s.curY
    have hcommand : effectsOf (.putChar ch) s = putCharEffects s s.curX s.curY ch := if_pos ((fontValid_iff s).2 hfont)
    rw [← hcommand, drawAt_cursor] at he
    obtain ⟨hw, hw', hh⟩ := hfont
    obtain ⟨u, hexec, hundef, hfault, hcursor, htrace⟩ := exec_box_rejected hs hq hp (writesOnly_wrapEffects s _ _) he hok
      rfl rfl ⟨hw, by omega⟩ ⟨hh, by omega⟩ hoff
    rw [applyWrites_wrapEffects_cursor, drawAt_cursor] at hcursor
    exact ⟨u, hexec, hundef, hfault, hcursor, htrace⟩
  · have he := effectsOf_drawCjk (x := x) (y := y) (c := c) hindex hmem
    rw [cjkTokens, hmode] at he
    obtain ⟨u, hexec, hundef, hfault, -, htrace⟩ := exec_box_rejected (w := 16) (h := 16) hs hq hp writesOnly_nil
      (he.trans (emits_append _ _)) hok (by omega) (by omega) (by omega) (by omega) hoff
    exact ⟨u, hexec, hundef, hfault, htrace⟩
  · have he := effectsOf_drawCjk_transparent (x := x) (y := y) (c := c) hindex hmem hmode
    rw [cjkPoints_eq, hpoints] at he
    exact exec_plots_rejected hs hq hp he hok hbefore hxy

end Sys2Proof.Machine
end

section
/-! What the observer rejects (20_memory.md R68, R69), and every command whose first token is a window's CMD token
(70_reset_and_hazards.md R275). -/

namespace Sys2Proof.Machine

/-- A command token in a short stream, or with half a pixel latched, is a verdict (20_memory.md R68). -/
theorem observe_cmd_short (p : Params) {q : Panel} (hlost : q.lost = false) (hm : q.mode = .stream)
    (hshort : q.count < windowSize q ∨ q.hi ≠ none) (b : Byte) : observe p ⟨.cmd, b⟩ q = .error .panelShort := by
  simp only [observe, hlost, Bool.false_eq_true, if_false, observeCmd, hm, if_pos hshort]

/-- A command token inside a range is a verdict (20_memory.md R69). -/
theorem observe_cmd_inRange (p : Params) {q : Panel} (hlost : q.lost = false) {got : List Byte}
    (hm : q.mode = .col got ∨ q.mode = .row got) (b : Byte) : observe p ⟨.cmd, b⟩ q = .error .panelProtocol := by
  rcases hm with hm | hm <;> simp [observe, hlost, observeCmd, hm]

/-- A command byte that is none of the three is a verdict (20_memory.md R69). -/
theorem observe_cmd_unknown {p : Params} {q : Panel} (hq : q.settled) {b : Byte} (hc : b ≠ p.cmdCaset)
    (hr : b ≠ p.cmdRaset) (hw : b ≠ p.cmdRamwr) : observe p ⟨.cmd, b⟩ q = .error .panelProtocol := by
  rw [observe_cmd_of_settled p hq, observeCommand, if_neg hc, if_neg hr, if_neg hw]

/-- These effects begin, after some register writes, with the first token of a window sequence. -/
def BeginsWindow (p : Params) (es : List Effect) : Prop :=
  ∃ pre post, WritesOnly pre ∧ es = pre ++ .emit (cmdToken p.cmdCaset) :: post

theorem beginsWindow_windowTokens (p : Params) (xs ys xe ye : Int) :
    BeginsWindow p (emits (windowTokens p xs ys xe ye)) :=
  ⟨[], _, writesOnly_nil, rfl⟩

theorem BeginsWindow.append_right {p : Params} {es : List Effect} (h : BeginsWindow p es) (es' : List Effect) :
    BeginsWindow p (es ++ es') := by
  obtain ⟨pre, post, hpre, rfl⟩ := h
  exact ⟨pre, post ++ es', hpre, by simp⟩

theorem BeginsWindow.after_writes {p : Params} {es writes : List Effect} (h : BeginsWindow p es) (hw : WritesOnly writes) :
    BeginsWindow p (writes ++ es) := by
  obtain ⟨pre, post, hpre, rfl⟩ := h
  refine ⟨writes ++ pre, post, fun e he => ?_, by simp⟩
  exact (List.mem_append.1 he).elim (hw e) (hpre e)

theorem beginsWindow_emits_append (p : Params) (xs ys xe ye : Int) (ts : List Token) :
    BeginsWindow p (emits (windowTokens p xs ys xe ye ++ ts)) := by
  rw [emits_append]
  exact (beginsWindow_windowTokens p xs ys xe ye).append_right _

/-- Plots begin with the window of their first point (41_rasterizer.md R140). -/
theorem beginsWindow_plots (p : Params) (c : Half) {points : List (Int × Int)} (h : points ≠ []) :
    BeginsWindow p (plots p c points) := by
  obtain ⟨xy, rest, rfl⟩ := List.exists_cons_of_ne_nil h
  rw [plots, List.flatMap_cons, plotTokens, List.append_assoc]
  exact beginsWindow_emits_append p xy.1 xy.2 xy.1 xy.2 _

/-- A line has its first point (41_rasterizer.md R142). -/
theorem linePoints_ne_nil (x0 y0 x1 y1 : Int) : linePoints x0 y0 x1 y1 ≠ [] := by
  have hfuel : lineFuel (lineVars x0 y0 x1 y1) = (|x1 - x0| + |y1 - y0|).toNat + 1 :=
    Int.toNat_add_nat (add_nonneg (abs_nonneg _) (abs_nonneg _)) 1
  rw [linePoints, hfuel, lineLoop]
  exact List.cons_ne_nil _ _

/-- A circle has the eight points of its first step (41_rasterizer.md R145). -/
theorem circlePoints_ne_nil (x0 y0 : Int) (r : Half) : circlePoints x0 y0 r ≠ [] := by
  obtain ⟨hr, -⟩ := coord_bounds r
  rw [circlePoints, circleFuel, circleLoop, if_pos hr]
  simp [octants]

/-- A rasterizer command plots at least one point (41_rasterizer.md R141-R149). -/
theorem rasterPlot_ne_nil {i : Instr} {c : Half} {points : List (Int × Int)} (h : rasterPlot i = some (c, points)) :
    points ≠ [] := by
  cases i with
  | drawPixel => cases h; exact List.cons_ne_nil _ _
  | drawLine => cases h; exact linePoints_ne_nil _ _ _ _
  | drawCircle => cases h; exact circlePoints_ne_nil _ _ _
  | drawTriangle => cases h; simp [trianglePoints, linePoints_ne_nil]
  | drawRect =>
    simp only [rasterPlot] at h
    split at h
    · cases h
    · cases h; simp [rectPoints, linePoints_ne_nil]
  | _ => cases h

theorem beginsWindow_rasterPlot {i : Instr} {c : Half} {points : List (Int × Int)} (h : rasterPlot i = some (c, points))
    (s : State) : BeginsWindow s.params (effectsOf i s) := by
  rw [effectsOf_rasterPlot h]
  exact beginsWindow_plots s.params c (rasterPlot_ne_nil h)

/-- A printable character whose glyph is in memory begins, after its line advance, with its window. -/
theorem beginsWindow_putCharEffects {s : State} {ch : Byte} (hch : printable ch = true) (hglyph : glyphInMemory s ch)
    (x y : Half) : BeginsWindow s.params (putCharEffects s x y ch) := by
  obtain ⟨post, h⟩ := putCharEffects_printable hch hglyph x y
  rw [h]
  exact ((beginsWindow_windowTokens s.params _ _ _ _).after_writes (writesOnly_wrapEffects s x y)).append_right post

/-- A character that is not printable offers no token (42_glyph_text.md R187). -/
theorem writesOnly_putCharEffects {ch : Byte} (hch : printable ch ≠ true) (s : State) (x y : Half) :
    WritesOnly (putCharEffects s x y ch) := by
  rw [putCharEffects]
  by_cases hnewline : ch = newline
  · rw [if_pos hnewline]; exact writesOnly_lineAdvance s y
  · rw [if_neg hnewline, if_neg hch]; exact writesOnly_nil

/-- A string begins, after some cursor writes, with the window of its first printable character. -/
theorem beginsWindow_putCharsEffects {s : State} {ch : Byte} {chars : List Byte} (hfind : chars.find? printable = some ch)
    (hglyph : glyphInMemory s ch) (x y : Half) : BeginsWindow s.params (putCharsEffects s x y chars) := by
  induction chars generalizing x y with
  | nil => cases hfind
  | cons first rest ih =>
    rw [putCharsEffects]
    by_cases hfirst : printable first = true
    · obtain rfl : first = ch := by simpa [hfirst] using hfind
      exact (beginsWindow_putCharEffects hfirst hglyph x y).append_right _
    · rw [List.find?_cons_of_neg hfirst] at hfind
      exact (ih hfind _ _).after_writes (writesOnly_putCharEffects hfirst s x y)

/-- An entry with a set bit plots it (42_glyph_text.md R190, R192). -/
theorem cjkPoints_ne_nil {s : State} {index : Half} {row col : Nat} (hrow : row < 16) (hcol : col < 16)
    (hbit : cjkBitAt s index row col = true) (x y : Int) :
    cjkPoints ((List.range 32).map fun k => readByte s.mem (s.cjkBase.toNat + 32 * index.toNat + k)) x y ≠ [] := by
  rw [cjkPoints_eq]
  intro hnil
  have hbyte := List.flatMap_eq_nil_iff.1 hnil (16 * (row / 8) + col) (List.mem_range.2 (by omega))
  have hnone := List.filterMap_eq_nil_iff.1 hbyte (row % 8) (List.mem_range.2 (by omega))
  have hset : (readByte s.mem (s.cjkBase.toNat + 32 * index.toNat + (16 * (row / 8) + col))).getLsbD (row % 8) = true :=
    hbit
  rw [if_pos hset] at hnone
  cases hnone

/-- R275's list: each of its commands begins, after its register writes, with a window's first token. -/
theorem beginsWindow_of_opensWindow {i : Instr} {s : State} (h : opensWindow s i) :
    BeginsWindow s.params (effectsOf i s) := by
  cases i with
  | setWindow => exact beginsWindow_windowTokens s.params _ _ _ _
  | blit x y w h' addr =>
    obtain ⟨hw, hh, hmem⟩ := h
    obtain ⟨bytes, he⟩ := effectsOf_blit (x := x) (y := y) hw hh hmem
    rw [he]
    exact (beginsWindow_windowTokens s.params _ _ _ _).append_right _
  | drawPixel => exact beginsWindow_rasterPlot rfl s
  | drawLine => exact beginsWindow_rasterPlot rfl s
  | drawCircle => exact beginsWindow_rasterPlot rfl s
  | drawTriangle => exact beginsWindow_rasterPlot rfl s
  | drawRect x0 y0 w h' c =>
    obtain ⟨hw, hh⟩ := h
    have hplot : rasterPlot (.drawRect x0 y0 w h' c) = some (c, rectPoints _ _ _ _) := if_neg (not_or.2 ⟨hw, hh⟩)
    exact beginsWindow_rasterPlot hplot s
  | putChar ch =>
    obtain ⟨hfont, hlo, hhi, hglyph⟩ := h
    rw [effectsOf, putCharCommandEffects, if_pos ((fontValid_iff s).2 hfont)]
    exact beginsWindow_putCharEffects ((printable_iff ch).2 ⟨hlo, hhi⟩) hglyph _ _
  | putString addr len =>
    obtain ⟨hfont, hmem, ch, hfind, hglyph⟩ := h
    simp only [effectsOf, putStringEffects, if_pos ((fontValid_iff s).2 hfont), stringCount, memRead_of_le hmem]
    exact beginsWindow_putCharsEffects hfind hglyph _ _
  | drawCjk x y index c =>
    obtain ⟨hindex, hmem, hmode⟩ := h
    cases hbg : s.params.cjkBg with
    | black =>
      rw [effectsOf_drawCjk hindex hmem, cjkTokens, hbg]
      exact beginsWindow_emits_append s.params _ _ _ _ _
    | transparent =>
      obtain ⟨row, col, hrow, hcol, hbit⟩ := hmode.resolve_left (by simp [hbg])
      rw [effectsOf_drawCjk_transparent hindex hmem hbg]
      exact beginsWindow_plots s.params c (cjkPoints_ne_nil hrow hcol hbit _ _)
  | nop => exact h.elim
  | writePixel => exact h.elim
  | pack565 => exact h.elim
  | setFont => exact h.elim
  | setCursorPos => exact h.elim
  | setCursorStyle => exact h.elim
  | setCjkTable => exact h.elim

/-- Settles O52: a window's first token is a command token, which a short stream rejects; the rest is the observer's own. -/
theorem observerRejectsBadSequences : Obligations.ObserverRejectsBadSequences := by
  refine ⟨fun i s hs hok hopens hlost hm hshort => ?_, fun p q t hlost => by simp [observe, hlost], fun p q b hlost =>
    ⟨fun hm hshort => observe_cmd_short p hlost hm hshort b, fun hm => observe_data_idle p hlost hm b,
      fun got hm => observe_cmd_inRange p hlost hm b, fun hm hc hr hw => observe_cmd_unknown ⟨hlost, hm⟩ hc hr hw⟩⟩
  obtain ⟨pre, post, hpre, he⟩ := beginsWindow_of_opensWindow hopens
  obtain ⟨u, hexec, hundef, hfault, hpanel, -, htrace⟩ :=
    exec_rejected (t := cmdToken s.params.cmdCaset) (ts := []) (post := post) hs hpre (by simpa using he) hok rfl
      (observe_cmd_short s.params hlost hm hshort _)
  exact ⟨u, hexec, hundef, hfault, hpanel, htrace⟩

end Sys2Proof.Machine
end

section
/-! The decoder against the encoder (30_encoding.md R81-R88): the cases of a decoded string, and that the arguments of a frame
and the bytes of a command determine one another. -/

namespace Sys2Proof.Machine

/-- The opcodes without a frame length are the reserved ones of R86. -/
theorem frameLength_eq_none_iff (opcode : Byte) : frameLength opcode = none ↔ reservedOpcode opcode = true := by
  have hlt := opcode.isLt
  simp only [reservedOpcode, Bool.or_eq_true, Bool.and_eq_true, decide_eq_true_eq]
  unfold frameLength
  split
  case h_18 => simp only [imp_false, true_iff] at *; omega
  all_goals simp only [reduceCtorEq, false_iff]; omega

/-- A frame's arguments can be read exactly where its opcode has a frame length (30_encoding.md R85). -/
theorem readFrame_eq_none_iff (frame : List Byte) (opcode : Byte) :
    readFrame frame opcode = none ↔ frameLength opcode = none := by
  unfold readFrame frameLength
  split <;> simp

/-- What the decoder makes of a string with an opcode byte: a reserved opcode, a frame cut short, or a command, whose
arguments are read at their places and whose surplus bytes are left (30_encoding.md R84, R86, R88). -/
theorem decode_cases (opcode : Byte) (rest : List Byte) :
    (frameLength opcode = none ∧ decode (opcode :: rest) = .reserved opcode rest) ∨
    ∃ n i, frameLength opcode = some n ∧ readFrame (opcode :: rest) opcode = some i ∧
      decode (opcode :: rest) =
        if rest.length + 1 < n then .incomplete else .command i ((opcode :: rest).drop n) := by
  cases hlen : frameLength opcode with
  | none => exact .inl ⟨rfl, by simp only [decode, hlen]⟩
  | some n =>
    cases hread : readFrame (opcode :: rest) opcode with
    | none => rw [readFrame_eq_none_iff, hlen] at hread; cases hread
    | some i => exact .inr ⟨n, i, rfl, rfl, by simp only [decode, hlen, hread, List.length_cons]⟩

/-- Every command's bytes are an opcode of the opcode map and as many bytes as its format says (30_encoding.md R83, R85). -/
theorem encodedLength : ∀ i : Instr, Laws.EncodedLength.Statement i
  | .nop => Laws.EncodedLength.nop
  | .setWindow xs ys xe ye => Laws.EncodedLength.setWindow xs ys xe ye
  | .writePixel c => Laws.EncodedLength.writePixel c
  | .pack565 r g b => Laws.EncodedLength.pack565 r g b
  | .blit x y w h addr => Laws.EncodedLength.blit x y w h addr
  | .drawPixel x y c => Laws.EncodedLength.drawPixel x y c
  | .drawLine x0 y0 x1 y1 c => Laws.EncodedLength.drawLine x0 y0 x1 y1 c
  | .drawCircle x0 y0 r c => Laws.EncodedLength.drawCircle x0 y0 r c
  | .drawTriangle x0 y0 x1 y1 x2 y2 c => Laws.EncodedLength.drawTriangle x0 y0 x1 y1 x2 y2 c
  | .drawRect x0 y0 w h c => Laws.EncodedLength.drawRect x0 y0 w h c
  | .setFont base fw fh => Laws.EncodedLength.setFont base fw fh
  | .setCursorPos x y => Laws.EncodedLength.setCursorPos x y
  | .setCursorStyle c cs ls => Laws.EncodedLength.setCursorStyle c cs ls
  | .putChar ch => Laws.EncodedLength.putChar ch
  | .putString addr len => Laws.EncodedLength.putString addr len
  | .setCjkTable base count => Laws.EncodedLength.setCjkTable base count
  | .drawCjk x y index c => Laws.EncodedLength.drawCjk x y index c

/-- The arguments read from a command's bytes are the command's, whatever follows them (30_encoding.md R81, R83). -/
theorem readFrame_encode {i : Instr} {opcode : Byte} {args : List Byte} (h : encode i = opcode :: args)
    (rest : List Byte) : readFrame (opcode :: args ++ rest) opcode = some i := by
  cases i
  all_goals
    obtain ⟨rfl, rfl⟩ := List.cons.inj h
    simp [readFrame, u8At, u16At, u32At, bytes16, bytes32]

/-- The bytes of the command read from a frame are the frame's, up to its opcode's length (30_encoding.md R81, R83). -/
theorem encode_of_readFrame {opcode : Byte} {rest : List Byte} {n : Nat} {i : Instr}
    (hlen : frameLength opcode = some n) (hread : readFrame (opcode :: rest) opcode = some i) :
    encode i = (List.range n).map (u8At (opcode :: rest)) := by
  have eq_ofNat : ∀ {k : Nat}, opcode.toNat = k → opcode = BitVec.ofNat 8 k := by
    rintro _ rfl
    simp
  unfold readFrame at hread
  split at hread
  case h_18 => cases hread
  all_goals
    rename_i hopcode
    obtain rfl := eq_ofNat hopcode
    cases hlen
    cases hread
    simp [encode, u16At, u32At, List.range_succ, u8At]

/-- The first `n` bytes of a string, byte by byte. -/
theorem map_u8At_range {bytes : List Byte} {n : Nat} (h : n ≤ bytes.length) :
    (List.range n).map (u8At bytes) = bytes.take n := by
  refine List.ext_getElem (by simpa using h) fun k hk _ => ?_
  have hlt : k < bytes.length := lt_of_lt_of_le (by simpa using hk) h
  simp [u8At, hlt]

/-- Settles O1: the opcode gives the command's own length, and the arguments are read back at their places. -/
theorem decodeInvertsEncode : Obligations.DecodeInvertsEncode := by
  intro i rest
  obtain ⟨opcode, args, hencode, hlength⟩ := encodedLength i
  have hread := readFrame_encode hencode rest
  rw [hencode, List.length_cons] at hlength
  rw [hencode]
  rcases decode_cases opcode (args ++ rest) with ⟨hnone, -⟩ | ⟨n, j, hn, hj, hdecode⟩
  · cases hlength.symm.trans hnone
  · obtain rfl := Option.some.inj (hlength.symm.trans hn)
    obtain rfl := Option.some.inj (hread.symm.trans hj)
    rw [List.cons_append, hdecode, if_neg (by simp)]
    simp

/-- Settles O2: a command is read from a whole frame, whose bytes its encoding gives back. -/
theorem encodeInvertsDecode : Obligations.EncodeInvertsDecode := by
  intro bytes i rest h
  cases bytes with
  | nil => cases h
  | cons opcode args =>
    rcases decode_cases opcode args with ⟨-, hdecode⟩ | ⟨n, j, hn, hj, hdecode⟩
    · cases hdecode.symm.trans h
    · rw [hdecode] at h
      split at h
      · cases h
      · rename_i hcomplete
        cases h
        rw [encode_of_readFrame hn hj, map_u8At_range (not_lt.1 hcomplete), List.take_append_drop]

/-- Settles O3: by the cases of a decoded string; the opcodes without a length are R86's. -/
theorem decoderIsTotal : Obligations.DecoderIsTotal := by
  refine ⟨rfl, fun opcode rest => ?_⟩
  rw [← frameLength_eq_none_iff]
  rcases decode_cases opcode rest with ⟨hn, hdecode⟩ | ⟨n, i, hn, -, hdecode⟩
  · simp [hdecode, hn]
  · by_cases hshort : rest.length + 1 < n
    · simp [hdecode, hn, hshort]
    · simp [hdecode, hn, hshort, not_lt.1 hshort]

/-- Settles O4: each of these strings is its command's encoding. -/
theorem specFramesDecode : Obligations.SpecFramesDecode :=
  ⟨decodeInvertsEncode (.setWindow 0x0102 0x0304 0x0506 0x0708) [], decodeInvertsEncode (.blit 1 2 2 1 0x400) [],
    decodeInvertsEncode (.drawRect 0 0 6 4 0xFFFF) [], decodeInvertsEncode (.setFont 0x100 6 8) [],
    decodeInvertsEncode (.putString 0x400 200) [], decodeInvertsEncode (.drawCjk 4 5 0 0xFFFF) []⟩

end Sys2Proof.Machine
end

section
/-! SET_WINDOW and WRITE_PIXEL as tokens (30_encoding.md R90, R91), and a box of pixels filled from a u16 place (20_memory.md
R67, 40_window_writer.md R116). -/

namespace Sys2Proof.Machine

/-- Settles O24: the command's effects are the window's tokens, which are delivered. -/
theorem setWindowOffersElevenTokens : Obligations.SetWindowOffersElevenTokens := by
  intro s xs ys xe ye q hs hquiet ho
  rw [shownWindow_eq_windowTokens] at ho ⊢
  exact exec_emits hs rfl hquiet ho

/-- Settles O27: the command's effects are the color's two bytes, which are delivered. -/
theorem writePixelOffersTwoTokens : Obligations.WritePixelOffersTwoTokens := by
  intro s c q hs hquiet ho
  rw [← halfTokens_eq_shownHalf] at ho ⊢
  exact exec_emits hs rfl hquiet ho

/-- Number `r * w + c` is column `c` of row `r` (00_scope.md R12). -/
theorem row_column_div_mod {w c : Nat} (hc : c < w) (r : Nat) : (r * w + c) / w = r ∧ (r * w + c) % w = c :=
  (Nat.div_mod_unique (by omega)).2 ⟨by ring, hc⟩

/-- Row `r` and column `c` of a raster have one of its numbers. -/
theorem row_column_lt {w h r c : Nat} (hr : r < h) (hc : c < w) : r * w + c < w * h := by
  have hrow : (r + 1) * w ≤ h * w := Nat.mul_le_mul_right _ hr
  rw [Nat.succ_mul, Nat.mul_comm h] at hrow
  omega

/-- The place of column `c` of row `r`. -/
theorem rasterPlace_row_column (x y : Int) {w c : Nat} (hc : c < w) (r : Nat) :
    rasterPlace x y w (r * w + c) = (x + c, y + r) := by
  obtain ⟨hdiv, hmod⟩ := row_column_div_mod hc r
  rw [rasterPlace, hdiv, hmod]

/-- Rows of `w` columns, one after the other, are numbered by quotient and residue. -/
theorem flatMap_rows_eq_map {α : Type} (f : Nat → Nat → α) (w h : Nat) :
    ((List.range h).flatMap fun r => (List.range w).map (f r)) =
      (List.range (h * w)).map fun j => f (j / w) (j % w) := by
  induction h with
  | zero => simp
  | succ h ih =>
    have hrow : (List.range w).map ((fun j => f (j / w) (j % w)) ∘ (h * w + ·)) = (List.range w).map (f h) :=
      List.map_congr_left fun c hc => by
        obtain ⟨hdiv, hmod⟩ := row_column_div_mod (List.mem_range.1 hc) h
        simp only [Function.comp_apply, hdiv, hmod]
    rw [List.range_succ, List.flatMap_append, ih, Nat.succ_mul, List.range_add, List.map_append, List.map_map, hrow,
      List.flatMap_singleton]

/-- A box of `w` columns and `h` lines from a u16 place on the panel, followed by exactly its pixels: its stream is full, each
pixel is at its place in raster order, every place outside the box is as before (20_memory.md R66, R67). -/
theorem observeAll_box {p : Params} {q : Panel} (hq : q.settled) (hp : p.distinctCommands) (hfit : p.offsetsFit)
    {x y : Half} {w h : Nat} (hw : 0 < w) (hh : 0 < h) (hx : x.toNat + w ≤ p.columnCount.toNat)
    (hy : y.toNat + h ≤ p.lineCount.toNat) {colors : List Half} (hlen : colors.length = w * h) :
    ∃ q', observeAll p (windowTokens p (coord x) (coord y) (coord x + w - 1) (coord y + h - 1) ++
        colors.flatMap pixelTokens) q = .ok q' ∧ q'.full ∧ q'.lost = false ∧
      (∀ j < w * h, imageGet q'.image (rasterPlace (coord x) (coord y) w j) = colors[j]?) ∧
      ∀ px py : Int, outside px py (coord x) (coord y) (coord x + w - 1) (coord y + h - 1) →
        imageGet q'.image (px, py) = imageGet q.image (px, py) := by
  obtain ⟨hc, hl⟩ := hfit
  have hon : WindowOnPanel p (coord x) (coord y) (coord x + w - 1) (coord y + h - 1) := by
    constructor <;> simp only [coord] <;> omega
  have hwidth : (w : Int) = coord x + w - 1 - coord x + 1 := by omega
  have hheight : (h : Int) = coord y + h - 1 - coord y + 1 := by omega
  have hsize := hon.windowSize_filling q colors.length (paint (rasterPlace (coord x) (coord y) w) 0 colors q.image)
  rw [← hwidth, ← hheight, ← Nat.cast_mul, ← hlen] at hsize
  refine ⟨_, observeAll_window_pixels hp hq hon hwidth hheight colors hlen.le, ⟨rfl, hsize.symm, rfl⟩, hq.1,
    fun j hj => ?_, fun px py hout => imageGet_paint_of_ne _ 0 colors q.image (px, py) fun j hj hplace => ?_⟩
  · have := imageGet_paint (rasterPlace_injective (coord x) (coord y) w) 0 colors q.image (hlen ▸ hj)
    rwa [zero_add] at this
  · refine rasterPlace_not_outside hwidth hheight (hlen ▸ hj) ?_
    rw [zero_add] at hplace
    rwa [← hplace]

end Sys2Proof.Machine
end

section
/-! A printable character: its tokens read from source memory, its cursor, its glyph on the panel (30_encoding.md R93;
42_glyph_text.md R181, R182, R187; 70_reset_and_hazards.md R280). -/

namespace Sys2Proof.Machine

/-- The color R187 gives a pixel of a character's glyph, read from source memory. -/
def shownGlyphColor (s : State) (ch : Byte) (r c : Nat) : Half := if glyphBitAt s ch r c then s.curColor else 0

/-- The pixels of a character's cell in raster order. -/
def shownGlyphColors (s : State) (ch : Byte) : List Half :=
  (List.range s.fontH.toNat).flatMap fun r => (List.range s.fontW.toNat).map (shownGlyphColor s ch r)

/-- The tokens of a printable character: its cell's window and pixels (42_glyph_text.md R187). -/
def glyphTokens (s : State) (ch : Byte) : List Token :=
  windowTokens s.params (coord (drawnColumn s)) (coord (drawnLine s)) (coord (drawnColumn s) + s.fontW.toNat - 1)
    (coord (drawnLine s) + s.fontH.toNat - 1) ++ (shownGlyphColors s ch).flatMap pixelTokens

/-- The glyph's byte that holds column `c` of row `r` is one of the glyph's bytes (30_encoding.md R93). -/
theorem glyph_index_lt {w h r c : Nat} (hr : r < h) (hc : c < w) : r * ((w + 7) / 8) + c / 8 < (w + 7) / 8 * h :=
  row_column_lt hr (by omega)

/-- The bytes read for a glyph give each pixel the color of R93's formula. -/
theorem glyphColor_eq_shown {s : State} {ch : Byte} {r c : Nat} (hr : r < s.fontH.toNat) (hc : c < s.fontW.toNat) :
    glyphColor s ((List.range (bytesPerGlyph s)).map fun k => readByte s.mem (glyphAddr s ch + k)) r c =
      shownGlyphColor s ch r c := by
  have hindex : r * bytesPerRow s + c / 8 < bytesPerGlyph s := glyph_index_lt hr hc
  simp only [glyphColor, glyphPixel, List.getD_eq_getElem?_getD, List.getElem?_map, List.getElem?_range hindex]
  rfl

/-- The pixels of a glyph read from source memory are those of R93's formula. -/
theorem glyphColors_eq_shown (s : State) (ch : Byte) :
    glyphColors s ((List.range (bytesPerGlyph s)).map fun k => readByte s.mem (glyphAddr s ch + k)) =
      shownGlyphColors s ch :=
  List.flatMap_congr fun _ hr => List.map_congr_left fun _ hc =>
    glyphColor_eq_shown (List.mem_range.1 hr) (List.mem_range.1 hc)

/-- The effects of a printable PUT_CHAR whose glyph is in memory: a line advance where the cell would pass the right edge, the
cell's tokens, and the cursor past the cell (42_glyph_text.md R187). -/
theorem effectsOf_putChar {s : State} {ch : Byte} (hfont : fontLegal s) (hlo : 32 ≤ ch.toNat) (hhi : ch.toNat ≤ 127)
    (hglyph : glyphInMemory s ch) :
    effectsOf (.putChar ch) s = wrapEffects s s.curX s.curY ++
      (emits (glyphTokens s ch) ++ [.write (.curX (columnAfter s (drawnColumn s)))]) := by
  have hprint := (printable_iff ch).2 ⟨hlo, hhi⟩
  have hread : glyphBytes s ch = some _ := memRead_of_le hglyph
  rw [effectsOf, putCharCommandEffects, if_pos ((fontValid_iff s).2 hfont), putCharEffects,
    if_neg (ne_newline_of_printable hprint), if_pos hprint, hread]
  simp only [wrapEffects, drawGlyph, drawAt_cursor, glyphColors_eq_shown, glyphTokens, emits_append]

/-- `CUR_X` past the cell, as R187 writes it. -/
theorem columnAfter_eq (s : State) (x : Half) : columnAfter s x = x + BitVec.setWidth 16 s.fontW + s.curCspace := by
  apply BitVec.eq_of_toNat_eq
  simp [columnAfter]

/-- The line advance moves the cursor to where R187 draws the character and changes nothing else. -/
theorem applyWrites_wrapEffects (s : State) :
    applyWrites (wrapEffects s s.curX s.curY) s = { s with curX := drawnColumn s, curY := drawnLine s } := by
  have hdrawn : { s with curX := (drawAt s s.curX s.curY).1, curY := (drawAt s s.curX s.curY).2 } =
      { s with curX := drawnColumn s, curY := drawnLine s } := by rw [drawAt_cursor]
  rw [← hdrawn, wrapEffects, drawAt]
  split <;> rfl

/-- The register writes of a printable PUT_CHAR: the cursor, after its line advance, moves past the cell. -/
theorem applyWrites_putChar (s : State) (ts : List Token) (x : Half) :
    applyWrites (wrapEffects s s.curX s.curY ++ (emits ts ++ [.write (.curX x)])) s =
      { s with curX := x, curY := drawnLine s } := by
  rw [applyWrites_append, applyWrites_wrapEffects, applyWrites_append, applyWrites_emits]
  rfl

/-- A printable PUT_CHAR whose glyph is in memory comes to no verdict of its own. -/
theorem verdict_not_mem_putChar (s : State) (ts : List Token) (w : RegWrite) (r : Verdict) :
    Effect.verdict r ∉ wrapEffects s s.curX s.curY ++ (emits ts ++ [.write w]) := by
  simp only [List.mem_append, List.mem_singleton, reduceCtorEq, or_false]
  rintro (hmem | hmem)
  · obtain ⟨w', hw'⟩ := writesOnly_wrapEffects s s.curX s.curY _ hmem
    cases hw'
  · obtain ⟨t, -, ht⟩ := mem_emits hmem
    cases ht

/-- A cell has as many pixels as its font's box. -/
theorem shownGlyphColors_length (s : State) (ch : Byte) :
    (shownGlyphColors s ch).length = s.fontW.toNat * s.fontH.toNat := by
  rw [shownGlyphColors, flatMap_rows_eq_map]
  simp [mul_comm]

/-- Column `c` of row `r` of a cell's pixels. -/
theorem getElem?_shownGlyphColors {s : State} {ch : Byte} {r c : Nat} (hr : r < s.fontH.toNat) (hc : c < s.fontW.toNat) :
    (shownGlyphColors s ch)[r * s.fontW.toNat + c]? = some (shownGlyphColor s ch r c) := by
  obtain ⟨hdiv, hmod⟩ := row_column_div_mod hc r
  rw [shownGlyphColors, flatMap_rows_eq_map, List.getElem?_map, mul_comm s.fontH.toNat,
    List.getElem?_range (row_column_lt hr hc), Option.map_some, hdiv, hmod]

/-- Pixels have two tokens each (30_encoding.md R91). -/
theorem pixels_length (colors : List Half) : (colors.flatMap pixelTokens).length = 2 * colors.length := by
  simp [List.length_flatMap, pixelTokens, halfTokens, mul_comm]

/-- A printable character has its window's 11 tokens and two for each pixel (70_reset_and_hazards.md R280). -/
theorem glyphTokens_length (s : State) (ch : Byte) :
    (glyphTokens s ch).length = 11 + 2 * (s.fontW.toNat * s.fontH.toNat) := by
  rw [glyphTokens, List.length_append, pixels_length, shownGlyphColors_length]
  rfl

/-- A printable character's tokens as the statement writes them. -/
theorem glyphTokens_eq (s : State) (ch : Byte) :
    glyphTokens s ch = windowTokens s.params (coord (drawnColumn s)) (coord (drawnLine s))
      (coord (drawnColumn s) + s.fontW.toNat - 1) (coord (drawnLine s) + s.fontH.toNat - 1) ++
      (List.range s.fontH.toNat).flatMap fun r => (List.range s.fontW.toNat).flatMap fun c =>
        shownHalf (if glyphBitAt s ch r c then s.curColor else 0) := by
  simp only [glyphTokens, shownGlyphColors, List.flatMap_assoc, List.flatMap_map, ← halfTokens_eq_shownHalf]
  rfl

/-- A printable PUT_CHAR whose tokens are all accepted completes, the cursor past its cell. -/
theorem exec_putChar_printable {s : State} {ch : Byte} {q : Panel} (hs : s.accepting) (hfont : fontLegal s)
    (hlo : 32 ≤ ch.toNat) (hhi : ch.toNat ≤ 127) (hglyph : glyphInMemory s ch)
    (hquiet : s.quiet (11 + 2 * (s.fontW.toNat * s.fontH.toNat)))
    (ho : observeAll s.params (glyphTokens s ch) s.panel = .ok q) :
    exec (.putChar ch) s = .next { s.delivered (glyphTokens s ch) q with
      curX := drawnColumn s + BitVec.setWidth 16 s.fontW + s.curCspace, curY := drawnLine s } := by
  have he := effectsOf_putChar hfont hlo hhi hglyph
  have htokens : effectTokens (effectsOf (.putChar ch) s) = glyphTokens s ch := by
    simp [he, effectTokens_append, (writesOnly_wrapEffects s _ _).effectTokens_eq]
  obtain ⟨hcompletes, -⟩ := commandsComplete (.putChar ch) s hs
  rw [htokens, glyphTokens_length] at hcompletes
  rw [hcompletes q (he ▸ verdict_not_mem_putChar s _ _) hquiet ho, he, applyWrites_putChar, columnAfter_eq]
  rfl

/-- Settles O44: the character's effects have no verdict, its tokens are accepted, and its writes are the cursor's. -/
theorem printableCharacterIsDrawn : Obligations.PrintableCharacterIsDrawn := by
  intro s ch q ts hs hfont hlo hhi hglyph hts hquiet ho
  rw [← glyphTokens_eq] at hts
  subst hts
  exact exec_putChar_printable hs hfont hlo hhi hglyph hquiet ho

/-- Settles O45: the accepted cell fills its window with the glyph's pixels. -/
theorem printableCharacterShowsItsGlyph : Obligations.PrintableCharacterShowsItsGlyph := by
  intro s ch hs hfont hlo hhi hglyph hquiet hq hp hfit hx hy
  obtain ⟨hw, -, hh⟩ := id hfont
  obtain ⟨⟨hundef, hbusy, -⟩, hfault, -⟩ := id hs
  obtain ⟨q, ho, hfull, hlost, hpixel, hout⟩ := observeAll_box hq hp hfit hw hh hx hy (shownGlyphColors_length s ch)
  refine ⟨_, exec_putChar_printable hs hfont hlo hhi hglyph hquiet ho, ⟨hundef, hbusy⟩, hfault, hfull,
    fun r c hr hc => ?_, fun px py h => ?_⟩
  · have hshown := hpixel (r * s.fontW.toNat + c) (row_column_lt hr hc)
    rw [rasterPlace_row_column _ _ hc, getElem?_shownGlyphColors hr hc] at hshown
    exact (if_neg (ne_true_of_eq_false hlost)).trans hshown
  · simpa [panelPixel, hlost, hq.1] using hout px py h

end Sys2Proof.Machine
end

section
/-! A command whose effects are register writes only, and the two of the window writer that offer no token: NOP and PACK565
(40_window_writer.md R112, R115). -/

namespace Sys2Proof.Machine

/-- A command whose effects are register writes completes, and the writes are all it does (00_scope.md R11, 60_exceptions.md
R249). -/
theorem exec_writesOnly {i : Instr} {s : State} (hs : s.accepting) (hquiet : s.quiet 0) (hw : WritesOnly (effectsOf i s)) :
    exec i s = .next (applyWrites (effectsOf i s) s) := by
  have hverdict : ∀ r, Effect.verdict r ∉ effectsOf i s := by
    intro r hmem
    obtain ⟨w, he⟩ := hw _ hmem
    cases he
  obtain ⟨-, -, -, -, -, -, hpanel, -⟩ := applyWrites_keep (effectsOf i s) s
  obtain ⟨hcompletes, -⟩ := commandsComplete i s hs
  rw [hw.effectTokens_eq] at hcompletes
  rw [hcompletes s.panel hverdict hquiet rfl]
  simp [State.delivered, ← hpanel]

/-- PACK565's value is the channels' top bits as one number: 5, 6 and 5 bits, red highest (R115). -/
theorem pack565Value_toNat (r g b : Byte) :
    (pack565Value r g b).toNat = r.toNat / 8 * 2048 + g.toNat / 4 * 32 + b.toNat / 8 := by
  have hr := r.isLt
  have hg := g.isLt
  have hb := b.isLt
  rw [pack565Value, append_toNat, append_toNat]
  simp only [BitVec.extractLsb'_toNat, Nat.shiftRight_eq_div_pow]
  omega

/-- Settles O22: the command's one effect is the write of PACK_RESULT. -/
theorem packTruncatesChannels : Obligations.PackTruncatesChannels := by
  intro s r g b hs hquiet
  have hw : WritesOnly (effectsOf (.pack565 r g b) s) := by simp [WritesOnly, effectsOf, pack565Effects]
  exact ⟨pack565Value r g b, pack565Value_toNat r g b, exec_writesOnly hs hquiet hw, rfl⟩

/-- Settles O21: the command has no effect to run. -/
theorem nopCompletes : Obligations.NopCompletes :=
  ⟨fun _ hs hquiet => exec_writesOnly hs hquiet writesOnly_nil, rfl⟩

end Sys2Proof.Machine
end

section
/-! Bresenham's line in closed form (41_rasterizer.md R142): along either axis the line has advanced, after `k` steps, by the
rounded quotient of `k` times that axis's difference by the larger difference; the error says when the quotient grows. -/

namespace Sys2Proof.Machine

/-- How far a line of `m` steps has advanced after `k` of them, along an axis on which its endpoints differ by `d`. -/
def axisAdvance (m d k : Nat) : Nat := (k * d + (m - 1) / 2) / m

/-- What is left of the rounded quotient `axisAdvance`. -/
def axisResidue (m d k : Nat) : Nat := (k * d + (m - 1) / 2) % m

theorem axisAdvance_add_axisResidue (m d k : Nat) :
    m * axisAdvance m d k + axisResidue m d k = k * d + (m - 1) / 2 := Nat.div_add_mod _ m

theorem axisResidue_lt {m : Nat} (hm : 0 < m) (d k : Nat) : axisResidue m d k < m := Nat.mod_lt _ hm

/-- A multiple of the number of steps is rounded to its quotient. -/
theorem axisAdvance_of_mul_eq {m d k n : Nat} (hn : m = 0 → n = 0) (h : k * d = m * n) : axisAdvance m d k = n := by
  rcases Nat.eq_zero_or_pos m with rfl | hm
  · rw [hn rfl, axisAdvance, Nat.div_zero]
  · rw [axisAdvance, h, Nat.mul_add_div hm, Nat.div_eq_of_lt (by omega), Nat.add_zero]

/-- No step has been made yet. -/
@[simp] theorem axisAdvance_zero (m d : Nat) : axisAdvance m d 0 = 0 := axisAdvance_of_mul_eq (fun _ => rfl) (by simp)

/-- The last step reaches the endpoint's coordinate. -/
theorem axisAdvance_last {m d : Nat} (h : d ≤ m) : axisAdvance m d m = d := axisAdvance_of_mul_eq (by omega) rfl

/-- The axis of the larger difference advances at every step. -/
theorem axisAdvance_longer {m k : Nat} (h : k ≤ m) : axisAdvance m m k = k :=
  axisAdvance_of_mul_eq (by omega) (Nat.mul_comm k m)

/-- An axis on which the endpoints agree never advances. -/
@[simp] theorem axisAdvance_same (m k : Nat) : axisAdvance m 0 k = 0 := axisAdvance_of_mul_eq (fun _ => rfl) rfl

/-- An axis advances at a step exactly where the residue carries. -/
theorem axisAdvance_succ {m d : Nat} (hm : 0 < m) (h : d ≤ m) (k : Nat) :
    axisAdvance m d (k + 1) = axisAdvance m d k + if m ≤ axisResidue m d k + d then 1 else 0 := by
  have hk := axisAdvance_add_axisResidue m d k
  have hr := axisResidue_lt hm d k
  have hsum : (k + 1) * d + (m - 1) / 2 = axisResidue m d k + d + m * axisAdvance m d k := by
    rw [Nat.succ_mul]
    omega
  rw [axisAdvance, hsum, Nat.add_mul_div_left _ _ hm, Nat.add_comm]
  congr 1
  split
  · exact Nat.div_eq_of_lt_le (by omega) (by omega)
  · exact Nat.div_eq_of_lt (by omega)

theorem axisAdvance_le {m d k : Nat} (h : d ≤ m) (hk : k ≤ m) : axisAdvance m d k ≤ d :=
  calc axisAdvance m d k ≤ axisAdvance m d m := Nat.div_le_div_right (Nat.add_le_add_right (Nat.mul_le_mul_right d hk) _)
    _ = d := axisAdvance_last h

/-- R142's error after `k` steps of a line whose coordinates differ by `a` and `b`: every advance along `x` has taken `b` from
it, every advance along `y` has added `a`. -/
def lineErrAfter (a b k : Nat) : Int :=
  Int.tdiv (if (a : Int) > b then (a : Int) else -b) 2 - axisAdvance (max a b) a k * b + axisAdvance (max a b) b k * a

/-- Where `x` differs more, the error is the residue of `y`, counted down. -/
theorem lineErrAfter_of_lt {a b k : Nat} (h : b < a) (hk : k ≤ a) :
    lineErrAfter a b k = a - 1 - axisResidue a b k := by
  have hres := congrArg (Nat.cast : Nat → Int) (axisAdvance_add_axisResidue a b k)
  push_cast at hres
  rw [lineErrAfter, max_eq_left h.le, axisAdvance_longer hk, if_pos (Int.ofNat_lt.2 h), Int.tdiv_eq_ediv_of_nonneg (by omega),
    mul_comm (axisAdvance a b k : Int)]
  omega

/-- Where `y` differs no less, the error is the residue of `x`, counted from below. -/
theorem lineErrAfter_of_le {a b k : Nat} (hb : 0 < b) (h : a ≤ b) (hk : k ≤ b) :
    lineErrAfter a b k = axisResidue b a k - (b - 1) := by
  have hres := congrArg (Nat.cast : Nat → Int) (axisAdvance_add_axisResidue b a k)
  push_cast at hres
  rw [lineErrAfter, max_eq_right h, axisAdvance_longer hk, if_neg (by omega), Int.neg_tdiv,
    Int.tdiv_eq_ediv_of_nonneg (by omega), mul_comm (axisAdvance b a k : Int)]
  omega

/-- R142's two tests hold exactly where the residue of their axis carries. -/
theorem lineErrAfter_tests {a b k : Nat} (hk : k < max a b) :
    (lineErrAfter a b k > -a ↔ max a b ≤ axisResidue (max a b) a k + a) ∧
    (lineErrAfter a b k < b ↔ max a b ≤ axisResidue (max a b) b k + b) := by
  rcases lt_or_ge b a with h | h
  · rw [max_eq_left h.le] at hk ⊢
    have hr := axisResidue_lt (by omega : 0 < a) b k
    rw [lineErrAfter_of_lt h hk.le]
    omega
  · rw [max_eq_right h] at hk ⊢
    have hr := axisResidue_lt (by omega : 0 < b) a k
    rw [lineErrAfter_of_le (by omega) h hk.le]
    omega

/-- The error changes as R142's two tests on it say. -/
theorem lineErrAfter_succ {a b k : Nat} (hk : k < max a b) :
    lineErrAfter a b (k + 1) = (if lineErrAfter a b k > -a then lineErrAfter a b k - b else lineErrAfter a b k) +
      if lineErrAfter a b k < b then (a : Int) else 0 := by
  have hm := Nat.zero_lt_of_lt hk
  obtain ⟨hx, hy⟩ := lineErrAfter_tests hk
  have hstep : lineErrAfter a b (k + 1) = lineErrAfter a b k -
      (if max a b ≤ axisResidue (max a b) a k + a then 1 else 0) * b +
      (if max a b ≤ axisResidue (max a b) b k + b then 1 else 0) * a := by
    simp only [lineErrAfter, axisAdvance_succ hm (le_max_left a b), axisAdvance_succ hm (le_max_right a b)]
    push_cast
    ring
  simp only [hstep, hx, hy]
  split <;> split <;> ring

end Sys2Proof.Machine
end

section
/-! Bresenham's loop (41_rasterizer.md R142-R144): its variables after any number of steps, and the points it plots. -/

namespace Sys2Proof.Machine

/-- The direction of a line along one axis (R142). -/
def lineSign (a b : Int) : Int := if a < b then 1 else -1

/-- How many steps a line makes: the larger difference of its endpoints' coordinates. -/
def lineSpan (x0 y0 x1 y1 : Int) : Nat := max (x1 - x0).natAbs (y1 - y0).natAbs

/-- One coordinate of a line of `m` steps from `a` to `b`, after `k` of them. -/
def lineCoord (m : Nat) (a b : Int) (k : Nat) : Int := a + lineSign a b * axisAdvance m (b - a).natAbs k

/-- The point of a line after `k` steps. -/
def linePlace (x0 y0 x1 y1 : Int) (k : Nat) : Int × Int :=
  (lineCoord (lineSpan x0 y0 x1 y1) x0 x1 k, lineCoord (lineSpan x0 y0 x1 y1) y0 y1 k)

/-- R142's variables after `k` steps. -/
def lineState (x0 y0 x1 y1 : Int) (k : Nat) : Int × Int × Int :=
  (lineCoord (lineSpan x0 y0 x1 y1) x0 x1 k, lineCoord (lineSpan x0 y0 x1 y1) y0 y1 k,
    lineErrAfter (x1 - x0).natAbs (y1 - y0).natAbs k)

theorem lineSign_mul_natAbs (a b : Int) : lineSign a b * (b - a).natAbs = b - a := by
  rw [lineSign]
  split <;> omega

@[simp] theorem lineCoord_zero (m : Nat) (a b : Int) : lineCoord m a b 0 = a := by simp [lineCoord]

theorem lineCoord_last {m : Nat} {a b : Int} (h : (b - a).natAbs ≤ m) : lineCoord m a b m = b := by
  rw [lineCoord, axisAdvance_last h, lineSign_mul_natAbs]
  omega

/-- A coordinate moves by the sign exactly where the residue carries. -/
theorem lineCoord_succ {m : Nat} {a b : Int} (hm : 0 < m) (h : (b - a).natAbs ≤ m) (k : Nat) :
    lineCoord m a b (k + 1) =
      if m ≤ axisResidue m (b - a).natAbs k + (b - a).natAbs then lineCoord m a b k + lineSign a b else lineCoord m a b k := by
  rw [lineCoord, lineCoord, axisAdvance_succ hm h]
  split
  · push_cast; ring
  · rfl

/-- A coordinate stays between the endpoints' (R144.5). -/
theorem lineCoord_mem_box {m k : Nat} {a b : Int} (h : (b - a).natAbs ≤ m) (hk : k ≤ m) :
    min a b ≤ lineCoord m a b k ∧ lineCoord m a b k ≤ max a b := by
  have hle := axisAdvance_le h hk
  rw [lineCoord, lineSign]
  split <;> omega

/-- A coordinate moves by at most 1 at a step (R144.3). -/
theorem lineCoord_succ_near {m : Nat} {a b : Int} (hm : 0 < m) (h : (b - a).natAbs ≤ m) (k : Nat) :
    |lineCoord m a b k - lineCoord m a b (k + 1)| ≤ 1 := by
  rw [lineCoord_succ hm h, lineSign]
  split_ifs <;> simp

/-- Along the longer axis different steps have different coordinates. -/
theorem lineCoord_injOn {m j k : Nat} {a b : Int} (hm : m = (b - a).natAbs) (hj : j ≤ m) (hk : k ≤ m)
    (h : lineCoord m a b j = lineCoord m a b k) : j = k := by
  rw [lineCoord, lineCoord, ← hm, axisAdvance_longer hj, axisAdvance_longer hk, lineSign] at h
  split at h <;> omega

/-- Where the endpoints agree, every point has their coordinate. -/
@[simp] theorem lineCoord_same (m : Nat) (a : Int) (k : Nat) : lineCoord m a a k = a := by simp [lineCoord]

/-- Upwards along the longer axis. -/
theorem lineCoord_add {n k : Nat} (a : Int) (hk : k ≤ n) : lineCoord n a (a + n) k = a + k := by
  have hd : (a + n - a).natAbs = n := by omega
  rw [lineCoord, hd, axisAdvance_longer hk, lineSign]
  split <;> omega

/-- Downwards along the longer axis. -/
theorem lineCoord_sub {n k : Nat} (a : Int) (hk : k ≤ n) : lineCoord n a (a - n) k = a - k := by
  have hd : (a - n - a).natAbs = n := by omega
  rw [lineCoord, hd, axisAdvance_longer hk, lineSign, if_neg (by omega)]
  omega

theorem natAbs_le_lineSpan (x0 y0 x1 y1 : Int) :
    (x1 - x0).natAbs ≤ lineSpan x0 y0 x1 y1 ∧ (y1 - y0).natAbs ≤ lineSpan x0 y0 x1 y1 :=
  ⟨le_max_left _ _, le_max_right _ _⟩

theorem lineState_zero (x0 y0 x1 y1 : Int) : lineState x0 y0 x1 y1 0 = lineStart x0 y0 x1 y1 := by
  simp [lineState, lineStart, lineErrAfter]

/-- R142's step, variable by variable. -/
theorem lineNext_eq (x0 y0 x1 y1 : Int) (v : Int × Int × Int) :
    lineNext x0 y0 x1 y1 v =
      (if v.2.2 > -|x1 - x0| then v.1 + lineSign x0 x1 else v.1, if v.2.2 < |y1 - y0| then v.2.1 + lineSign y0 y1 else v.2.1,
        (if v.2.2 > -|x1 - x0| then v.2.2 - |y1 - y0| else v.2.2) + if v.2.2 < |y1 - y0| then |x1 - x0| else 0) := by
  by_cases hx : v.2.2 > -|x1 - x0| <;> by_cases hy : v.2.2 < |y1 - y0| <;>
    simp only [lineNext, lineSign, hx, hy, if_true, if_false, add_zero]

/-- Every step before the last is one of R142's. -/
theorem lineState_succ {x0 y0 x1 y1 : Int} {k : Nat} (hk : k < lineSpan x0 y0 x1 y1) :
    lineState x0 y0 x1 y1 (k + 1) = lineNext x0 y0 x1 y1 (lineState x0 y0 x1 y1 k) := by
  obtain ⟨hx, hy⟩ := natAbs_le_lineSpan x0 y0 x1 y1
  have hm := Nat.zero_lt_of_lt hk
  obtain ⟨htx, hty⟩ := lineErrAfter_tests hk
  simp only [lineNext_eq, lineState, lineCoord_succ hm hx, lineCoord_succ hm hy, lineErrAfter_succ hk, Int.abs_eq_natAbs,
    htx, hty]
  rfl

/-- R142's loop, one iteration before the endpoint. -/
theorem lineLoop_succ_of_ne {x0 y0 x1 y1 : Int} {v : Int × Int × Int} (h : (v.1, v.2.1) ≠ (x1, y1)) (n : Nat) :
    lineLoop (lineVars x0 y0 x1 y1) (n + 1) v.1 v.2.1 v.2.2 = (v.1, v.2.1) ::
      lineLoop (lineVars x0 y0 x1 y1) n (lineNext x0 y0 x1 y1 v).1 (lineNext x0 y0 x1 y1 v).2.1
        (lineNext x0 y0 x1 y1 v).2.2 := by
  have hend : ¬ (v.1 = (lineVars x0 y0 x1 y1).x1 ∧ v.2.1 = (lineVars x0 y0 x1 y1).y1) := fun ⟨hx, hy⟩ =>
    h (Prod.ext hx hy)
  rw [lineLoop, if_neg hend, lineNext_eq]
  rfl

/-- R142's loop stops at the endpoint. -/
theorem lineLoop_succ_of_eq {x0 y0 x1 y1 : Int} {v : Int × Int × Int} (h : (v.1, v.2.1) = (x1, y1)) (n : Nat) :
    lineLoop (lineVars x0 y0 x1 y1) (n + 1) v.1 v.2.1 v.2.2 = [(x1, y1)] := by
  obtain ⟨hx, hy⟩ := Prod.mk.inj h
  rw [lineLoop, hx, hy]
  exact congrArg _ (if_pos ⟨rfl, rfl⟩)

theorem linePlace_zero (x0 y0 x1 y1 : Int) : linePlace x0 y0 x1 y1 0 = (x0, y0) := by simp [linePlace]

theorem linePlace_last (x0 y0 x1 y1 : Int) : linePlace x0 y0 x1 y1 (lineSpan x0 y0 x1 y1) = (x1, y1) := by
  obtain ⟨hx, hy⟩ := natAbs_le_lineSpan x0 y0 x1 y1
  rw [linePlace, lineCoord_last hx, lineCoord_last hy]

/-- Along the longer axis every step counts, so different steps are different points (R144.4). -/
theorem linePlace_injOn (x0 y0 x1 y1 : Int) : Set.InjOn (linePlace x0 y0 x1 y1) {k | k ≤ lineSpan x0 y0 x1 y1} := by
  intro j hj k hk h
  obtain ⟨hx, hy⟩ := Prod.mk.inj h
  rcases max_choice (x1 - x0).natAbs (y1 - y0).natAbs with hmax | hmax
  · exact lineCoord_injOn hmax hj hk hx
  · exact lineCoord_injOn hmax hj hk hy

/-- Before its last step a line is not at its endpoint. -/
theorem linePlace_ne_last {x0 y0 x1 y1 : Int} {k : Nat} (hk : k < lineSpan x0 y0 x1 y1) :
    linePlace x0 y0 x1 y1 k ≠ (x1, y1) := by
  rw [← linePlace_last x0 y0 x1 y1]
  exact fun h => hk.ne (linePlace_injOn x0 y0 x1 y1 hk.le (le_refl (lineSpan x0 y0 x1 y1)) h)

/-- From its state after `k` steps on, R142's loop plots the points still to come. -/
theorem lineLoop_lineState {x0 y0 x1 y1 : Int} (m : Nat) {k fuel : Nat} (hk : k + m = lineSpan x0 y0 x1 y1)
    (hfuel : m < fuel) :
    lineLoop (lineVars x0 y0 x1 y1) fuel (lineState x0 y0 x1 y1 k).1 (lineState x0 y0 x1 y1 k).2.1
      (lineState x0 y0 x1 y1 k).2.2 = (List.range' k (m + 1)).map (linePlace x0 y0 x1 y1) := by
  obtain ⟨n, rfl⟩ := Nat.exists_eq_add_one_of_ne_zero (Nat.ne_zero_of_lt hfuel)
  induction m generalizing k n with
  | zero =>
    obtain rfl : k = lineSpan x0 y0 x1 y1 := hk
    rw [lineLoop_succ_of_eq (linePlace_last x0 y0 x1 y1)]
    simp [linePlace_last]
  | succ m ih =>
    have hlt : k < lineSpan x0 y0 x1 y1 := by omega
    obtain ⟨n, rfl⟩ := Nat.exists_eq_add_one_of_ne_zero (by omega : n ≠ 0)
    rw [lineLoop_succ_of_ne (linePlace_ne_last hlt), ← lineState_succ hlt, ih (by omega) n (by omega)]
    rfl

/-- A line's points are its places after 0, 1, … steps up to the endpoint: the bound on the iterations cuts nothing short. -/
theorem linePoints_eq_map (x0 y0 x1 y1 : Int) :
    linePoints x0 y0 x1 y1 = (List.range (lineSpan x0 y0 x1 y1 + 1)).map (linePlace x0 y0 x1 y1) := by
  have hfuel : lineSpan x0 y0 x1 y1 < lineFuel (lineVars x0 y0 x1 y1) := by
    simp only [lineFuel, lineVars, lineSpan, Int.abs_eq_natAbs]
    omega
  have hloop := lineLoop_lineState (lineSpan x0 y0 x1 y1) (Nat.zero_add _) hfuel
  rw [lineState_zero] at hloop
  rw [List.range_eq_range', ← hloop]
  rfl

/-- A line of a known number of steps, its coordinates after each of them being known. -/
theorem linePoints_of_coords {x0 y0 x1 y1 : Int} {n : Nat} {fx fy : Nat → Int} (hn : max (x1 - x0).natAbs (y1 - y0).natAbs = n)
    (hx : ∀ k ≤ n, lineCoord n x0 x1 k = fx k) (hy : ∀ k ≤ n, lineCoord n y0 y1 k = fy k) :
    linePoints x0 y0 x1 y1 = (List.range (n + 1)).map fun k => (fx k, fy k) := by
  rw [linePoints_eq_map, lineSpan, hn]
  refine List.map_congr_left fun k hk => ?_
  have hle : k ≤ n := Nat.le_of_lt_succ (List.mem_range.1 hk)
  rw [linePlace, lineSpan, hn, hx k hle, hy k hle]

/-- A line has one point more than steps (R144.1). -/
theorem linePoints_length (x0 y0 x1 y1 : Int) : (linePoints x0 y0 x1 y1).length = lineSpan x0 y0 x1 y1 + 1 := by
  simp [linePoints_eq_map]

theorem head?_linePoints (x0 y0 x1 y1 : Int) : (linePoints x0 y0 x1 y1).head? = some (x0, y0) := by
  rw [linePoints_eq_map, List.range_succ_eq_map]
  simp [linePlace_zero]

theorem getLast?_linePoints (x0 y0 x1 y1 : Int) : (linePoints x0 y0 x1 y1).getLast? = some (x1, y1) := by
  rw [linePoints_eq_map, List.range_succ]
  simp [linePlace_last]

/-- Settles O33: the steps are R142's from its start on, the last of them at the endpoint, and none before it. -/
theorem lineReachesItsEndpoint : Obligations.LineReachesItsEndpoint := by
  intro x0 y0 x1 y1
  refine ⟨⟨(List.range (lineSpan x0 y0 x1 y1 + 1)).map (lineState x0 y0 x1 y1), ?_, ?_, ?_, ?_⟩, ?_,
    head?_linePoints x0 y0 x1 y1, getLast?_linePoints x0 y0 x1 y1⟩
  · rw [List.range_succ_eq_map, ← lineState_zero]
    rfl
  · exact (List.isChain_map _).2 ((List.isChain_range_succ _ _).2 fun k hk => lineState_succ hk)
  · rw [List.range_succ, List.map_append, List.map_singleton, List.dropLast_concat]
    rintro v hv
    obtain ⟨k, hk, rfl⟩ := List.mem_map.1 hv
    exact linePlace_ne_last (List.mem_range.1 hk)
  · rw [linePoints_eq_map, List.map_map]
    rfl
  · rw [linePoints_length, lineSpan, Int.abs_eq_natAbs, Int.abs_eq_natAbs]
    push_cast
    rfl

/-- Settles O34: each coordinate moves by at most 1 at a step, and different steps are different points. -/
theorem lineIsConnected : Obligations.LineIsConnected := by
  intro x0 y0 x1 y1
  obtain ⟨hx, hy⟩ := natAbs_le_lineSpan x0 y0 x1 y1
  rw [linePoints_eq_map]
  refine ⟨(List.isChain_map _).2 ((List.isChain_range_succ _ _).2 fun k hk => ⟨?_, ?_, fun h => ?_⟩), ?_⟩
  · exact lineCoord_succ_near (Nat.zero_lt_of_lt hk) hx k
  · exact lineCoord_succ_near (Nat.zero_lt_of_lt hk) hy k
  · exact absurd (linePlace_injOn x0 y0 x1 y1 hk.le (Nat.succ_le_of_lt hk) h) (by simp)
  · exact List.nodup_range.map_on fun j hj k hk => linePlace_injOn x0 y0 x1 y1
      (Nat.le_of_lt_succ (List.mem_range.1 hj)) (Nat.le_of_lt_succ (List.mem_range.1 hk))

/-- Settles O35: both coordinates stay between the endpoints'. -/
theorem lineStaysInItsBox : Obligations.LineStaysInItsBox := by
  intro x0 y0 x1 y1 xy hxy
  rw [linePoints_eq_map] at hxy
  obtain ⟨k, hk, rfl⟩ := List.mem_map.1 hxy
  obtain ⟨hx, hy⟩ := natAbs_le_lineSpan x0 y0 x1 y1
  have hle := Nat.le_of_lt_succ (List.mem_range.1 hk)
  obtain ⟨hxmin, hxmax⟩ := lineCoord_mem_box hx hle
  obtain ⟨hymin, hymax⟩ := lineCoord_mem_box hy hle
  exact ⟨hxmin, hxmax, hymin, hymax⟩

/-- Settles O36: the longer axis counts the steps, up or down, and the other does the same or stays. -/
theorem straightLinesPlotEveryPlace : Obligations.StraightLinesPlotEveryPlace := by
  intro x y n
  have hup : ∀ a : Int, ∀ k ≤ n, lineCoord n a (a + n) k = a + (k : Int) := fun a _ hk => lineCoord_add a hk
  have hdown : ∀ a : Int, ∀ k ≤ n, lineCoord n a (a - n) k = a - (k : Int) := fun a _ hk => lineCoord_sub a hk
  have hstay : ∀ a : Int, ∀ k ≤ n, lineCoord n a a k = a := fun a k _ => lineCoord_same n a k
  exact ⟨linePoints_of_coords (by omega) (hup x) (hstay y),
    linePoints_of_coords (by omega) (hdown x) (hstay y),
    linePoints_of_coords (by omega) (hstay x) (hup y),
    linePoints_of_coords (by omega) (hstay x) (hdown y),
    linePoints_of_coords (by omega) (hup x) (hup y),
    linePoints_of_coords (by omega) (hdown x) (hup y),
    linePoints_of_coords (by omega) (hup x) (hdown y),
    linePoints_of_coords (by omega) (hdown x) (hdown y)⟩

end Sys2Proof.Machine
end

section
/-! The outlines made of lines: the triangle (41_rasterizer.md R148) and the rectangle (R149). -/

namespace Sys2Proof.Machine

theorem start_mem_linePoints (x0 y0 x1 y1 : Int) : (x0, y0) ∈ linePoints x0 y0 x1 y1 :=
  List.mem_of_mem_head? (head?_linePoints x0 y0 x1 y1)

theorem end_mem_linePoints (x0 y0 x1 y1 : Int) : (x1, y1) ∈ linePoints x0 y0 x1 y1 :=
  List.mem_of_mem_getLast? (getLast?_linePoints x0 y0 x1 y1)

/-- A line from a place to itself is that one place (R143). -/
theorem linePoints_same (x y : Int) : linePoints x y x y = [(x, y)] := by
  simp [linePoints_eq_map, linePlace, lineSpan]

/-- Settles O39: every vertex is the end of one of the lines and the start of another. -/
theorem triangleIsThreeLines : Obligations.TriangleIsThreeLines := by
  intro x0 y0 x1 y1 x2 y2
  have hstart : ∀ a b c d : Int, 1 ≤ (linePoints a b c d).count (a, b) := fun a b c d =>
    List.one_le_count_iff.2 (start_mem_linePoints a b c d)
  have hend : ∀ a b c d : Int, 1 ≤ (linePoints a b c d).count (c, d) := fun a b c d =>
    List.one_le_count_iff.2 (end_mem_linePoints a b c d)
  refine ⟨List.append_assoc _ _ _, fun _ => ?_, by simp [trianglePoints, linePoints_same]⟩
  simp only [trianglePoints, List.count_append]
  have h01 := hstart x0 y0 x1 y1
  have h01' := hend x0 y0 x1 y1
  have h12 := hstart x1 y1 x2 y2
  have h12' := hend x1 y1 x2 y2
  have h20 := hstart x2 y2 x0 y0
  have h20' := hend x2 y2 x0 y0
  omega

/-- The four sides of a rectangle, every place of each in order (R149). -/
theorem rectPoints_eq_sides (x0 y0 : Int) {w h : Nat} (hw : 1 ≤ w) (hh : 1 ≤ h) :
    rectPoints x0 y0 w h =
      (List.range w).map (fun k : Nat => (x0 + (k : Int), y0)) ++
      (List.range h).map (fun k : Nat => (x0 + w - 1, y0 + (k : Int))) ++
      (List.range w).map (fun k : Nat => (x0 + w - 1 - (k : Int), y0 + h - 1)) ++
      (List.range h).map (fun k : Nat => (x0, y0 + h - 1 - (k : Int))) := by
  obtain ⟨w, rfl⟩ := Nat.exists_eq_add_of_le' hw
  obtain ⟨h, rfl⟩ := Nat.exists_eq_add_of_le' hh
  have hright : x0 + ((w + 1 : Nat) : Int) - 1 = x0 + w := by omega
  have hbottom : y0 + ((h + 1 : Nat) : Int) - 1 = y0 + h := by omega
  obtain ⟨htop, -⟩ := straightLinesPlotEveryPlace x0 y0 w
  obtain ⟨-, -, hdown, -⟩ := straightLinesPlotEveryPlace (x0 + w) y0 h
  obtain ⟨-, hback, -⟩ := straightLinesPlotEveryPlace (x0 + w) (y0 + h) w
  obtain ⟨-, -, -, hup, -⟩ := straightLinesPlotEveryPlace x0 (y0 + h) h
  rw [add_sub_cancel_right] at hback hup
  rw [rectPoints, hright, hbottom, htop, hdown, hback, hup]

/-- Settles O38: each side is an interval of its line, and together they are the box's outline. -/
theorem rectIsTheBoxOutline : Obligations.RectIsTheBoxOutline := by
  intro x0 y0 w h hw hh
  have hsides := rectPoints_eq_sides x0 y0 hw hh
  refine ⟨hsides, ?_, fun ⟨x, y⟩ => ?_⟩
  · rw [hsides]
    simp only [List.length_append, List.length_map, List.length_range]
    omega
  · rw [hsides]
    simp only [List.mem_append, List.mem_map, List.mem_range, Prod.mk.injEq]
    constructor
    · rintro (((⟨k, hk, rfl, rfl⟩ | ⟨k, hk, rfl, rfl⟩) | ⟨k, hk, rfl, rfl⟩) | ⟨k, hk, rfl, rfl⟩) <;> omega
    · rintro ⟨hl, hr, ht, hb, hside⟩
      rcases hside with hleft | hright | htop | hbottom
      · exact .inr ⟨(y0 + h - 1 - y).toNat, by omega, hleft.symm, by omega⟩
      · exact .inl (.inl (.inr ⟨(y - y0).toNat, by omega, hright.symm, by omega⟩))
      · exact .inl (.inl (.inl ⟨(x - x0).toNat, by omega, by omega, htop.symm⟩))
      · exact .inl (.inr ⟨(x0 + w - 1 - x).toNat, by omega, by omega, hbottom.symm⟩)

end Sys2Proof.Machine
end

section
/-! The circle (41_rasterizer.md R145, R147): its steps as a list, and what each of them keeps. -/

namespace Sys2Proof.Machine

/-- R145's steps from `v` on, at most `n` of them: the variables at the start of each iteration. -/
def circleSteps : Nat → Int × Int × Int → List (Int × Int × Int)
  | 0, _ => []
  | n + 1, v => if v.1 ≥ v.2.1 then v :: circleSteps n (circleNext v) else []

/-- R145's step, variable by variable, as the loop makes its two tests. -/
theorem circleNext_eq (x y err : Int) :
    circleNext (x, y, err) = ((circleSecond x (circleFirst y err).2).1, (circleFirst y err).1,
      (circleSecond x (circleFirst y err).2).2) := by
  simp only [circleNext, circleFirst, circleSecond]
  split <;> split <;> rfl

/-- What one step does to `x` and `y`: neither leaves its direction, and at least one of them moves (R147.1). -/
theorem circleNext_moves (v : Int × Int × Int) :
    (circleNext v).1 ≤ v.1 ∧ v.2.1 ≤ (circleNext v).2.1 ∧
      (circleNext v).1 - (circleNext v).2.1 < v.1 - v.2.1 := by
  simp only [circleNext]
  split_ifs <;> simp <;> omega

/-- The circle's loop plots the eight reflections of each of its steps. -/
theorem circleLoop_eq_flatMap (x0 y0 : Int) (n : Nat) (x y err : Int) :
    circleLoop x0 y0 n x y err = (circleSteps n (x, y, err)).flatMap fun v => reflections x0 y0 v.1 v.2.1 := by
  induction n generalizing x y err with
  | zero => rfl
  | succ n ih =>
    rw [circleLoop, circleSteps]
    split
    · rw [ih, List.flatMap_cons, circleNext_eq]
      rfl
    · rfl

/-- The first step is where the loop starts. -/
theorem head?_circleSteps {n : Nat} {v : Int × Int × Int} : ∀ u ∈ (circleSteps n v).head?, u = v := by
  cases n with
  | zero => exact fun _ hu => nomatch hu
  | succ n =>
    intro u hu
    rw [circleSteps] at hu
    split at hu
    · exact (Option.some.inj hu).symm
    · cases hu

/-- The steps are R145's, each from the one before it. -/
theorem isChain_circleSteps (n : Nat) (v : Int × Int × Int) :
    List.IsChain (fun a b => b = circleNext a) (circleSteps n v) := by
  induction n, v using circleSteps.induct with
  | case1 v => exact .nil
  | case2 n v hge ih =>
    rw [circleSteps, if_pos hge]
    exact List.isChain_cons.2 ⟨head?_circleSteps, ih⟩
  | case3 n v hlt =>
    rw [circleSteps, if_neg hlt]
    exact .nil

/-- At every step `x ≥ y`, `x` has not grown and `y` has not fallen. -/
theorem mem_circleSteps {n : Nat} {v u : Int × Int × Int} (hu : u ∈ circleSteps n v) :
    u.1 ≥ u.2.1 ∧ u.1 ≤ v.1 ∧ v.2.1 ≤ u.2.1 := by
  induction n, v using circleSteps.induct with
  | case1 v => cases hu
  | case2 n v hge ih =>
    rw [circleSteps, if_pos hge] at hu
    rcases List.mem_cons.1 hu with rfl | hu
    · exact ⟨hge, le_rfl, le_rfl⟩
    · obtain ⟨h, hx, hy⟩ := ih hu
      obtain ⟨hx', hy', -⟩ := circleNext_moves v
      exact ⟨h, hx.trans hx', hy'.trans hy⟩
  | case3 n v hlt =>
    rw [circleSteps, if_neg hlt] at hu
    cases hu

/-- `x - y` falls at each step, so a bound above it cuts nothing short (R147.1). -/
theorem circleSteps_add {n : Nat} {v : Int × Int × Int} (h : v.1 - v.2.1 < n) (k : Nat) :
    circleSteps (n + k) v = circleSteps n v := by
  induction n, v using circleSteps.induct with
  | case1 v =>
    rw [Nat.zero_add]
    cases k with
    | zero => rfl
    | succ k => exact if_neg (by omega)
  | case2 n v hge ih =>
    obtain ⟨-, -, hfall⟩ := circleNext_moves v
    rw [Nat.succ_add, circleSteps, circleSteps, if_pos hge, if_pos hge, ih (by omega)]
  | case3 n v hlt => rw [Nat.succ_add, circleSteps, circleSteps, if_neg hlt, if_neg hlt]

/-- There are no more steps than `x - y` can fall (R147.1). -/
theorem circleSteps_length_le (n : Nat) (v : Int × Int × Int) :
    (circleSteps n v).length ≤ (v.1 - v.2.1 + 1).toNat := by
  induction n, v using circleSteps.induct with
  | case1 v => exact Nat.zero_le _
  | case2 n v hge ih =>
    obtain ⟨-, -, hfall⟩ := circleNext_moves v
    rw [circleSteps, if_pos hge, List.length_cons]
    omega
  | case3 n v hlt =>
    rw [circleSteps, if_neg hlt]
    exact Nat.zero_le _

/-- Under a bound above `x - y` there is no step only where `x < y`. -/
theorem not_ge_of_circleSteps_eq_nil {n : Nat} {v : Int × Int × Int} (h : v.1 - v.2.1 < n) (hnil : circleSteps n v = []) :
    ¬ v.1 ≥ v.2.1 := by
  cases n with
  | zero => omega
  | succ n =>
    intro hge
    rw [circleSteps, if_pos hge] at hnil
    cases hnil

/-- Under a bound above `x - y` the loop ends only where `x < y` after its last step. -/
theorem getLast?_circleSteps {n : Nat} {v u : Int × Int × Int} (h : v.1 - v.2.1 < n)
    (hu : (circleSteps n v).getLast? = some u) : ¬ (circleNext u).1 ≥ (circleNext u).2.1 := by
  induction n, v using circleSteps.induct with
  | case1 v => cases hu
  | case2 n v hge ih =>
    obtain ⟨-, -, hfall⟩ := circleNext_moves v
    have hbound : (circleNext v).1 - (circleNext v).2.1 < n := by omega
    rw [circleSteps, if_pos hge, List.getLast?_cons] at hu
    cases hlast : (circleSteps n (circleNext v)).getLast? with
    | none =>
      rw [hlast] at hu
      cases hu
      exact not_ge_of_circleSteps_eq_nil hbound (List.getLast?_eq_none_iff.1 hlast)
    | some w =>
      rw [hlast] at hu
      cases hu
      exact ih hbound hlast
  | case3 n v hlt =>
    rw [circleSteps, if_neg hlt] at hu
    cases hu

/-- A circle's steps (R145): its loop from `(r, 0, 0)` on. -/
theorem circlePoints_eq_flatMap (x0 y0 : Int) (r : Half) :
    circlePoints x0 y0 r = (circleSteps (circleFuel r) (coord r, 0, 0)).flatMap fun v => reflections x0 y0 v.1 v.2.1 :=
  circleLoop_eq_flatMap x0 y0 (circleFuel r) (coord r) 0 0

/-- The reflections of a place in the first octant within `r` lie in the box of `r` about the centre. -/
theorem reflections_mem_box {x0 y0 x y r : Int} (hy : 0 ≤ y) (hyx : y ≤ x) (hx : x ≤ r) {xy : Int × Int}
    (h : xy ∈ reflections x0 y0 x y) : x0 - r ≤ xy.1 ∧ xy.1 ≤ x0 + r ∧ y0 - r ≤ xy.2 ∧ xy.2 ≤ y0 + r := by
  simp only [reflections, List.mem_cons, List.not_mem_nil, or_false] at h
  rcases h with rfl | rfl | rfl | rfl | rfl | rfl | rfl | rfl <;> simp only <;> omega

/-- R147.3. -/
theorem circlePoints_mem_box {x0 y0 : Int} {r : Half} {xy : Int × Int} (h : xy ∈ circlePoints x0 y0 r) :
    x0 - coord r ≤ xy.1 ∧ xy.1 ≤ x0 + coord r ∧ y0 - coord r ≤ xy.2 ∧ xy.2 ≤ y0 + coord r := by
  rw [circlePoints_eq_flatMap] at h
  obtain ⟨v, hv, hxy⟩ := List.mem_flatMap.1 h
  obtain ⟨hge, hx, hy⟩ := mem_circleSteps hv
  exact reflections_mem_box hy hge hx hxy

/-- The model's bound on the iterations is above `x - y` where the loop starts (R147.1). -/
theorem lt_circleFuel (r : Half) : coord r - 0 < circleFuel r := by
  simp only [coord, circleFuel]
  omega

/-- Settles O37: the loop's own steps are R145's, and `x - y`, which starts at `r`, falls at each of them. -/
theorem circleEndsInItsBox : Obligations.CircleEndsInItsBox := by
  refine ⟨fun x0 y0 r => ⟨fun k => ?_, ⟨circleSteps (circleFuel r) (coord r, 0, 0), ?_, isChain_circleSteps _ _,
    fun v hv => (mem_circleSteps hv).1, fun v => getLast?_circleSteps (lt_circleFuel r), ?_,
    circlePoints_eq_flatMap x0 y0 r, ?_⟩, fun xy => circlePoints_mem_box⟩, by decide +kernel⟩
  · rw [circleLoop_eq_flatMap, circleSteps_add (lt_circleFuel r), ← circlePoints_eq_flatMap]
  · rw [circleFuel, circleSteps, if_pos (coord_bounds r).1, List.head?_cons]
  · refine (circleSteps_length_le _ _).trans_eq ?_
    simp only [coord]
    omega
  · rw [circlePoints_eq_flatMap, List.length_flatMap]
    simp [reflections, mul_comm]

end Sys2Proof.Machine
end

section
/-! What the rasterizer's Plots leave at the observer (20_memory.md R67; 40_window_writer.md R116; 41_rasterizer.md R140). -/

namespace Sys2Proof.Machine

/-- The observer right after a Plot: its last window is 1 by 1 and full (41_rasterizer.md R140). -/
structure Panel.Plotted (q : Panel) : Prop where
  full : q.full
  size : windowSize q = 1
  notLost : q.lost = false

theorem Panel.Plotted.settled {q : Panel} (h : q.Plotted) : q.settled := by
  obtain ⟨⟨hmode, hcount, hhi⟩, -, hlost⟩ := h
  exact ⟨hlost, .inr ⟨hmode, hcount.ge, hhi⟩⟩

/-- A place on the panel whose sums with the offsets fit 16 bits is the place the panel takes it for. -/
theorem place_of_onPanel {p : Params} (hfit : p.offsetsFit) {xy : Int × Int} (hon : p.onPanel xy) : Panel.place p xy = xy := by
  obtain ⟨hc, hl⟩ := hfit
  obtain ⟨hx, hx', hy, hy'⟩ := hon
  simp only [coord] at hx' hy'
  refine Prod.ext ?_ ?_ <;> simp only [Panel.place, coord] <;> omega

/-- A Plot on the panel writes its pixel and nothing else. -/
theorem observeAll_plot {p : Params} (hp : p.distinctCommands) (hfit : p.offsetsFit) {q : Panel} (hq : q.settled) (c : Half)
    {xy : Int × Int} (hon : p.onPanel xy) :
    ∃ q', observeAll p (plotTokens p c xy) q = .ok q' ∧ q'.Plotted ∧ q'.image = imageSet q.image xy c := by
  have hplace := place_of_onPanel hfit hon
  have ho := observeAll_plotTokens hp hq c (xy := xy) (by rwa [hplace])
  rw [hplace] at ho
  have hsize := windowSize_filling_rangeSize q (le_refl (coord (shownCoord xy.1 p.columnOffset)))
    (le_refl (coord (shownCoord xy.2 p.lineOffset))) 1 (imageSet q.image xy c)
  simp only [rangeSize, Nat.sub_self] at hsize
  exact ⟨_, ho, ⟨⟨rfl, hsize.symm, rfl⟩, hsize, hq.1⟩, rfl⟩

/-- Plots on the panel write exactly their points; at least one of them, or an earlier Plot, is the last one shown. -/
theorem observeAll_plots_image {p : Params} (hp : p.distinctCommands) (hfit : p.offsetsFit) (c : Half)
    (points : List (Int × Int)) (hon : ∀ xy ∈ points, p.onPanel xy) {q : Panel} (hq : q.settled)
    (hlast : q.Plotted ∨ points ≠ []) :
    ∃ q', observeAll p (points.flatMap (plotTokens p c)) q = .ok q' ∧ q'.Plotted ∧
      ∀ xy, imageGet q'.image xy = if xy ∈ points then some c else imageGet q.image xy := by
  induction points generalizing q with
  | nil => exact ⟨q, rfl, hlast.resolve_right (fun h => h rfl), fun xy => by simp⟩
  | cons ab points ih =>
    obtain ⟨q₁, ho₁, hplotted, himage⟩ := observeAll_plot hp hfit hq c (hon ab (.head _))
    obtain ⟨q', ho, hq', hget⟩ := ih (fun xy h => hon xy (.tail _ h)) hplotted.settled (.inl hplotted)
    refine ⟨q', ?_, hq', fun xy => ?_⟩
    · rw [List.flatMap_cons, observeAll_append, ho₁]
      exact ho
    · rw [hget, himage, imageGet_imageSet]
      by_cases hxy : xy ∈ points <;> simp [hxy]

/-- Settles O32: the command's effects are its points' Plots, each of which writes its pixel. -/
theorem rasterCommandsPaintTheirPoints : Obligations.RasterCommandsPaintTheirPoints := by
  intro i c points s hi hs hquiet hsettled hp hfit hon
  obtain ⟨q, ho, ⟨hfull, hsize, hlost⟩, hget⟩ :=
    observeAll_plots_image hp hfit c points hon hsettled (.inr (rasterPlot_ne_nil hi))
  rw [← plots_length s.params c points] at hquiet
  exact ⟨q, exec_emits hs (effectsOf_rasterPlot hi s) hquiet ho, hfull, hsize, hlost, hget⟩

end Sys2Proof.Machine
end

section
/-! The text commands that offer no token, and the register setters: the font check, the newline, the codepoints outside the
font (42_glyph_text.md R180, R183-R188, R191). -/

namespace Sys2Proof.Machine

/-- A command whose first effect is a verdict of its own ends there and changes nothing else (60_exceptions.md R246). -/
theorem exec_ownVerdict {i : Instr} {s : State} {r : Verdict} (hs : s.accepting) (hquiet : s.quiet 0)
    (he : effectsOf i s = [.verdict r]) : exec i s = .next { s with undef := some r } := by
  rw [exec_accepting hs, he, runEffects_verdict (quiet_draw (s := { s with busy := true }) hquiet), setUndef_idle hs.1]

/-- With a legal font PUT_CHAR's effects are its character's, at the cursor (42_glyph_text.md R180, R188). -/
theorem effectsOf_putChar_of_fontLegal {s : State} (hfont : fontLegal s) (ch : Byte) :
    effectsOf (.putChar ch) s = putCharEffects s s.curX s.curY ch :=
  if_pos ((fontValid_iff s).2 hfont)

theorem putCharEffects_newline (s : State) (x y : Half) : putCharEffects s x y newline = lineAdvance s y := if_pos rfl

theorem putCharEffects_of_not_printable (s : State) (x y : Half) {ch : Byte} (hn : ch ≠ newline)
    (hch : printable ch = false) : putCharEffects s x y ch = [] := by
  rw [putCharEffects, if_neg hn, if_neg (ne_true_of_eq_false hch)]

/-- Settles O41: with an illegal font the commands' one effect is the verdict. -/
theorem fontIsCheckedFirst : Obligations.FontIsCheckedFirst := by
  intro s hs hquiet hfont
  have hillegal : ¬ fontValid s = true := by
    rw [fontValid_iff, fontLegal]
    omega
  exact ⟨fun ch => exec_ownVerdict hs hquiet (if_neg hillegal), fun addr len => exec_ownVerdict hs hquiet (if_neg hillegal)⟩

/-- Settles O42: the newline's effects are the line advance's two writes. -/
theorem newlineAdvancesTheLine : Obligations.NewlineAdvancesTheLine := by
  intro s hs hquiet hfont
  have he : effectsOf (.putChar 0x0A) s = lineAdvance s s.curY :=
    (effectsOf_putChar_of_fontLegal hfont newline).trans (putCharEffects_newline s s.curX s.curY)
  have hline : (if s.curY.toNat + s.fontH.toNat + s.curLspace.toNat + s.fontH.toNat > s.params.lineCount.toNat then 0
      else s.curY + BitVec.setWidth 16 s.fontH + s.curLspace) = advanceLine s s.curY := by
    rw [advanceLine_eq_nextLine, nextLine,
      show s.curY.toNat + s.fontH.toNat + s.curLspace.toNat + s.fontH.toNat =
        s.curY.toNat + 2 * s.fontH.toNat + s.curLspace.toNat by omega]
  rw [exec_writesOnly hs hquiet (he ▸ writesOnly_lineAdvance s s.curY), he, hline]
  rfl

/-- Settles O43: the character has no effect to run. -/
theorem nonPrintableIsIgnored : Obligations.NonPrintableIsIgnored := by
  intro s ch hs hquiet hfont hrange hne
  have hch : printable ch = false := by
    rw [Bool.eq_false_iff, ne_eq, printable_iff]
    omega
  have he : effectsOf (.putChar ch) s = [] :=
    (effectsOf_putChar_of_fontLegal hfont ch).trans (putCharEffects_of_not_printable s s.curX s.curY hne hch)
  rw [exec_writesOnly hs hquiet (he ▸ writesOnly_nil), he]
  rfl

/-- Settles O23: each setter's effects are the writes of its operands. -/
theorem registerSettersComplete : Obligations.RegisterSettersComplete := by
  intro s hs hquiet
  exact ⟨fun base fw fh => exec_writesOnly hs hquiet (by simp [WritesOnly, effectsOf, setFontEffects]),
    fun x y => exec_writesOnly hs hquiet (by simp [WritesOnly, effectsOf, setCursorPosEffects]),
    fun c cs ls => exec_writesOnly hs hquiet (by simp [WritesOnly, effectsOf, setCursorStyleEffects]),
    fun base count => exec_writesOnly hs hquiet (by simp [WritesOnly, effectsOf, setCjkTableEffects])⟩

end Sys2Proof.Machine
end

section
/-! CJK glyphs: the sweep and its inverse, an entry read from source memory, its tokens and what they show in either mode
(30_encoding.md R94; 42_glyph_text.md R190, R192; 70_reset_and_hazards.md R280). -/

namespace Sys2Proof.Machine

/-- The byte and bit of a cell's pixel are those the sweep visits it at (42_glyph_text.md R190). -/
theorem cjkPixelPos_of_row_col {row col : Nat} (hcol : col < 16) :
    cjkPixelPos (16 * (row / 8) + col) (row % 8) = (col, row) := by
  simp only [cjkPixelPos, Prod.mk.injEq]
  omega

/-- The pixel at the place of a byte's bit is that bit (30_encoding.md R94, 42_glyph_text.md R190). -/
theorem cjkPixel_cjkPixelPos (entry : List Byte) {k b : Nat} (hb : b < 8) :
    cjkPixel entry (cjkPixelPos k b).2 (cjkPixelPos k b).1 = cjkBit entry k b := by
  have hbyte : 16 * ((8 * (k / 16) + b) / 8) + k % 16 = k := by omega
  have hbit : (8 * (k / 16) + b) % 8 = b := by omega
  simp only [cjkPixelPos, cjkPixel, hbyte, hbit]

/-- Settles O50: quotient and residue by 16 and by 8 determine a place and are determined by it. -/
theorem cjkSweepIsABijection : Obligations.CjkSweepIsABijection := by
  refine ⟨fun entry k b hk hb => ⟨?_, ?_, cjkPixel_cjkPixelPos entry hb⟩,
    fun row col hrow hcol => ⟨by omega, cjkPixelPos_of_row_col hcol⟩⟩
  · exact Nat.mod_lt k (by decide)
  · simp only [cjkPixelPos]
    omega

/-- The 32 bytes of an entry, as source memory holds them (42_glyph_text.md R192). -/
def cjkBytes (s : State) (index : Half) : List Byte :=
  (List.range 32).map fun k => readByte s.mem (s.cjkBase.toNat + 32 * index.toNat + k)

/-- An entry's pixels are the bits of R190's formula. -/
theorem cjkPixel_cjkBytes (s : State) (index : Half) {row col : Nat} (hrow : row < 16) (hcol : col < 16) :
    cjkPixel (cjkBytes s index) row col = cjkBitAt s index row col := by
  have hindex : 16 * (row / 8) + col < 32 := by omega
  simp only [cjkPixel, cjkBit, cjkBytes, List.getD_eq_getElem?_getD, List.getElem?_map, List.getElem?_range hindex]
  rfl

/-- The color BLACK mode gives a pixel of the cell (42_glyph_text.md R192). -/
def shownCjkColor (s : State) (index c : Half) (row col : Nat) : Half := if cjkBitAt s index row col then c else 0

/-- The cell's pixels in BLACK mode, in raster order. -/
def shownCjkColors (s : State) (index c : Half) : List Half :=
  (List.range 16).flatMap fun row => (List.range 16).map (shownCjkColor s index c row)

theorem cjkColors_eq_shown (s : State) (index c : Half) : cjkColors (cjkBytes s index) c = shownCjkColors s index c := by
  refine List.flatMap_congr fun row hrow => List.map_congr_left fun col hcol => ?_
  rw [cjkPixel_cjkBytes s index (List.mem_range.1 hrow) (List.mem_range.1 hcol)]
  rfl

theorem shownCjkColors_length (s : State) (index c : Half) : (shownCjkColors s index c).length = 16 * 16 := by
  rw [shownCjkColors, flatMap_rows_eq_map, List.length_map, List.length_range]

theorem getElem?_shownCjkColors (s : State) (index c : Half) {row col : Nat} (hrow : row < 16) (hcol : col < 16) :
    (shownCjkColors s index c)[row * 16 + col]? = some (shownCjkColor s index c row col) := by
  obtain ⟨hdiv, hmod⟩ := row_column_div_mod hcol row
  rw [shownCjkColors, flatMap_rows_eq_map, List.getElem?_map, List.getElem?_range (row_column_lt hrow hcol),
    Option.map_some, hdiv, hmod]

/-- DRAW_CJK's tokens in BLACK mode: the cell's window and its pixels (42_glyph_text.md R192). -/
theorem cjkTokens_black {s : State} (hmode : s.params.cjkBg = .black) (x y index c : Half) :
    cjkTokens s.params (cjkBytes s index) x y c =
      windowTokens s.params (coord x) (coord y) (coord x + 15) (coord y + 15) ++
        (shownCjkColors s index c).flatMap pixelTokens := by
  rw [cjkTokens, hmode, ← cjkColors_eq_shown]

/-- DRAW_CJK's tokens in TRANSPARENT mode: the Plots of its set bits (42_glyph_text.md R192). -/
theorem cjkTokens_transparent {s : State} (hmode : s.params.cjkBg = .transparent) (x y index c : Half) :
    cjkTokens s.params (cjkBytes s index) x y c =
      (cjkPoints (cjkBytes s index) (coord x) (coord y)).flatMap (plotTokens s.params c) := by
  rw [cjkTokens, hmode]

/-- A cell has 523 tokens in BLACK mode (70_reset_and_hazards.md R280). -/
theorem cjkTokens_length_black {s : State} (hmode : s.params.cjkBg = .black) (x y index c : Half) :
    (cjkTokens s.params (cjkBytes s index) x y c).length = 523 := by
  rw [cjkTokens_black hmode, List.length_append, pixels_length, shownCjkColors_length]
  rfl

/-- A DRAW_CJK of an entry in memory whose tokens are all accepted delivers them and changes no register. -/
theorem exec_drawCjk {s : State} {x y index c : Half} {q : Panel} (hs : s.accepting)
    (hindex : index.toNat < s.cjkCount.toNat) (hmem : s.cjkBase.toNat + 32 * index.toNat + 32 ≤ s.params.memSize)
    (hquiet : s.quiet (cjkTokens s.params (cjkBytes s index) x y c).length)
    (ho : observeAll s.params (cjkTokens s.params (cjkBytes s index) x y c) s.panel = .ok q) :
    exec (.drawCjk x y index c) s = .next (s.delivered (cjkTokens s.params (cjkBytes s index) x y c) q) :=
  exec_emits hs (effectsOf_drawCjk hindex hmem) hquiet ho

/-- Settles O48: the statement's tokens are the command's, in either mode. -/
theorem drawCjkOffersTheCell : Obligations.DrawCjkOffersTheCell := by
  intro s x y index c q ts hs hindex hmem hts hquiet ho
  have htokens : ts = cjkTokens s.params (cjkBytes s index) x y c := by
    rcases hts with ⟨hmode, rfl⟩ | ⟨hmode, rfl⟩
    · simp only [cjkTokens_black hmode, shownCjkColors, List.flatMap_assoc, List.flatMap_map, ← halfTokens_eq_shownHalf]
      rfl
    · rw [cjkTokens_transparent hmode, cjkBytes, cjkPoints_eq]
  subst htokens
  exact ⟨exec_drawCjk hs hindex hmem hquiet ho, fun hmode => cjkTokens_length_black hmode x y index c⟩

/-- The set bits' places are the lit pixels of the cell (42_glyph_text.md R190). -/
theorem mem_cjkPoints_iff (entry : List Byte) (x y : Int) (xy : Int × Int) :
    xy ∈ cjkPoints entry x y ↔
      ∃ row col : Nat, row < 16 ∧ col < 16 ∧ cjkPixel entry row col = true ∧ xy = (x + col, y + row) := by
  simp only [cjkPoints, List.mem_flatMap, List.mem_map, List.mem_filter, List.mem_range]
  constructor
  · rintro ⟨k, hk, b, ⟨hb, hbit⟩, rfl⟩
    refine ⟨(cjkPixelPos k b).2, (cjkPixelPos k b).1, ?_, Nat.mod_lt k (by decide),
      (cjkPixel_cjkPixelPos entry hb).trans hbit, rfl⟩
    simp only [cjkPixelPos]
    omega
  · rintro ⟨row, col, hrow, hcol, hpixel, rfl⟩
    exact ⟨16 * (row / 8) + col, by omega, row % 8, ⟨Nat.mod_lt row (by decide), hpixel⟩,
      by rw [cjkPixelPos_of_row_col hcol]⟩

/-- A place of the cell is plotted exactly where its pixel is set. -/
theorem place_mem_cjkPoints_iff (entry : List Byte) (x y : Int) {row col : Nat} (hrow : row < 16) (hcol : col < 16) :
    (x + (col : Int), y + (row : Int)) ∈ cjkPoints entry x y ↔ cjkPixel entry row col = true := by
  rw [mem_cjkPoints_iff]
  constructor
  · rintro ⟨row', col', -, -, hpixel, hplace⟩
    obtain ⟨hcol', hrow'⟩ := Prod.mk.inj hplace
    rwa [show row = row' by omega, show col = col' by omega]
  · exact fun hpixel => ⟨row, col, hrow, hcol, hpixel, rfl⟩

/-- An entry has at most 256 set bits. -/
theorem cjkPoints_length_le (entry : List Byte) (x y : Int) : (cjkPoints entry x y).length ≤ 256 := by
  rw [cjkPoints, List.length_flatMap]
  refine (List.sum_le_card_nsmul _ 8 fun n hn => ?_).trans (by simp)
  obtain ⟨k, -, rfl⟩ := List.mem_map.1 hn
  rw [List.length_map]
  exact List.length_filter_le _ _

/-- A cell has at most 3328 tokens in either mode: a Plot for each of its 256 places. -/
theorem cjkTokens_length_le (s : State) (x y index c : Half) :
    (cjkTokens s.params (cjkBytes s index) x y c).length ≤ 3328 := by
  cases hmode : s.params.cjkBg with
  | black =>
    rw [cjkTokens_length_black hmode]
    decide
  | transparent =>
    have := cjkPoints_length_le (cjkBytes s index) (coord x) (coord y)
    rw [cjkTokens_transparent hmode, plots_length]
    omega

/-- What a 0 bit's place shows after DRAW_CJK, from what it showed before (42_glyph_text.md R192). -/
def cjkBackground (p : Params) (before : Option Half) : Option Half :=
  match p.cjkBg with
  | .black => some 0
  | .transparent => before

/-- The observer `q` shows a CJK glyph over what the machine's observer showed: the set bits in the color, the background at
the cell's other places, nothing changed outside the cell. -/
structure ShowsCjk (s : State) (x y index c : Half) (q : Panel) : Prop where
  notLost : q.lost = false
  cell : ∀ row col : Nat, row < 16 → col < 16 → imageGet q.image (coord x + col, coord y + row) =
    if cjkBitAt s index row col then some c
    else cjkBackground s.params (imageGet s.panel.image (coord x + col, coord y + row))
  frame : ∀ px py : Int, outside px py (coord x) (coord y) (coord x + 15) (coord y + 15) →
    imageGet q.image (px, py) = imageGet s.panel.image (px, py)

/-- Plots on the panel write exactly their points, and leave the observer as it was where there are none. -/
theorem observeAll_plots_shown {p : Params} (hp : p.distinctCommands) (hfit : p.offsetsFit) (c : Half)
    (points : List (Int × Int)) (hon : ∀ xy ∈ points, p.onPanel xy) {q : Panel} (hq : q.settled) :
    ∃ q', observeAll p (points.flatMap (plotTokens p c)) q = .ok q' ∧ q'.lost = false ∧
      ∀ xy, imageGet q'.image xy = if xy ∈ points then some c else imageGet q.image xy := by
  cases points with
  | nil => exact ⟨q, rfl, hq.1, fun xy => by simp⟩
  | cons ab points =>
    obtain ⟨q', ho, hplotted, hget⟩ :=
      observeAll_plots_image hp hfit c (ab :: points) hon hq (.inr (List.cons_ne_nil ab points))
    exact ⟨q', ho, hplotted.notLost, hget⟩

section
variable {s : State} {x y : Half} (index c : Half) (hq : s.panel.settled) (hp : s.params.distinctCommands)
  (hfit : s.params.offsetsFit) (hx : x.toNat + 16 ≤ s.params.columnCount.toNat)
  (hy : y.toNat + 16 ≤ s.params.lineCount.toNat)
include hq hp hfit hx hy

/-- In BLACK mode a cell on the panel is a box of 256 pixels, accepted and shown. -/
theorem observeAll_cjkTokens_black (hmode : s.params.cjkBg = .black) :
    ∃ q, observeAll s.params (cjkTokens s.params (cjkBytes s index) x y c) s.panel = .ok q ∧
      ShowsCjk s x y index c q := by
  have hxe : coord x + 15 = coord x + (16 : Nat) - 1 := by omega
  have hye : coord y + 15 = coord y + (16 : Nat) - 1 := by omega
  obtain ⟨q, ho, -, hlost, hpixel, hout⟩ :=
    observeAll_box hq hp hfit (by decide) (by decide) hx hy (shownCjkColors_length s index c)
  rw [cjkTokens_black hmode, hxe, hye]
  refine ⟨q, ho, hlost, fun row col hrow hcol => ?_, fun px py h => hout px py (by rwa [← hxe, ← hye])⟩
  have hshown := hpixel (row * 16 + col) (row_column_lt hrow hcol)
  rw [rasterPlace_row_column _ _ hcol, getElem?_shownCjkColors s index c hrow hcol] at hshown
  rw [hshown, shownCjkColor, cjkBackground, hmode]
  exact apply_ite some _ _ _

/-- In TRANSPARENT mode the Plots of a cell on the panel are accepted and write the set bits' places alone. -/
theorem observeAll_cjkTokens_transparent (hmode : s.params.cjkBg = .transparent) :
    ∃ q, observeAll s.params (cjkTokens s.params (cjkBytes s index) x y c) s.panel = .ok q ∧
      ShowsCjk s x y index c q := by
  have hon : ∀ xy ∈ cjkPoints (cjkBytes s index) (coord x) (coord y), s.params.onPanel xy := by
    intro xy hmem
    obtain ⟨row, col, hrow, hcol, -, rfl⟩ := (mem_cjkPoints_iff _ _ _ _).1 hmem
    simp only [Params.onPanel, coord]
    omega
  obtain ⟨q, ho, hlost, hget⟩ := observeAll_plots_shown hp hfit c _ hon hq
  rw [cjkTokens_transparent hmode]
  refine ⟨q, ho, hlost, fun row col hrow hcol => ?_, fun px py h => ?_⟩
  · rw [hget, cjkBackground, hmode]
    exact if_congr ((place_mem_cjkPoints_iff _ _ _ hrow hcol).trans (by rw [cjkPixel_cjkBytes s index hrow hcol])) rfl rfl
  · rw [hget, if_neg]
    intro hmem
    obtain ⟨row, col, hrow, hcol, -, hplace⟩ := (mem_cjkPoints_iff _ _ _ _).1 hmem
    obtain ⟨rfl, rfl⟩ := Prod.mk.inj hplace
    omega

/-- A glyph whose cell lies on the panel is accepted and shown, in either mode (42_glyph_text.md R192, 90_conflicts.md C8). -/
theorem observeAll_cjkTokens :
    ∃ q, observeAll s.params (cjkTokens s.params (cjkBytes s index) x y c) s.panel = .ok q ∧
      ShowsCjk s x y index c q := by
  cases hmode : s.params.cjkBg with
  | black => exact observeAll_cjkTokens_black index c hq hp hfit hx hy hmode
  | transparent => exact observeAll_cjkTokens_transparent index c hq hp hfit hx hy hmode

end

/-- Settles O49: the cell's tokens are accepted and show the glyph, whichever the mode. -/
theorem drawCjkShowsTheGlyph : Obligations.DrawCjkShowsTheGlyph := by
  intro s x y index c hs hindex hmem hquiet hq hp hfit hx hy
  obtain ⟨⟨hundef, hbusy, -⟩, hfault, -⟩ := id hs
  obtain ⟨q, ho, hlost, hcell, hframe⟩ := observeAll_cjkTokens index c hq hp hfit hx hy
  have hshown : ∀ (ts : List Token) (px py : Int), panelPixel (s.delivered ts q) px py = imageGet q.image (px, py) :=
    fun ts px py => if_neg (ne_true_of_eq_false hlost)
  have hbefore : ∀ px py : Int, panelPixel s px py = imageGet s.panel.image (px, py) :=
    fun px py => if_neg (ne_true_of_eq_false hq.1)
  refine ⟨_, exec_drawCjk hs hindex hmem (quiet_le hquiet (cjkTokens_length_le s x y index c)) ho, ⟨hundef, hbusy⟩, hfault,
    fun row col hrow hcol => ?_, fun px py h => ?_⟩
  · have hplace := hcell row col hrow hcol
    rw [← hbefore] at hplace
    exact (hshown _ _ _).trans hplace
  · rw [hshown, hbefore]
    exact hframe px py h

end Sys2Proof.Machine
end

section
/-! One character's effects, and a string's: their cases, their tokens, their register writes (42_glyph_text.md R186, R187, R189;
70_reset_and_hazards.md R280). -/

namespace Sys2Proof.Machine

/-- The machine with its cursor moved (10_state.md R25, R26). -/
def State.atCursor (s : State) (xy : Half × Half) : State := { s with curX := xy.1, curY := xy.2 }

/-- The cursor after a string's characters, each moving it in turn (42_glyph_text.md R187, R189). -/
def cursorAfterChars (s : State) (xy : Half × Half) (chars : List Byte) : Half × Half :=
  chars.foldl (fun xy ch => cursorAfter s xy.1 xy.2 ch) xy

/-- The four cases of a character: the newline, a printable one, any other, and a printable one whose glyph is not in memory
(42_glyph_text.md R187). -/
theorem putCharEffects_cases (s : State) (x y : Half) (ch : Byte) :
    (printable ch = false ∧ putCharEffects s x y ch = lineAdvance s y ∧ cursorAfter s x y ch = (0, advanceLine s y)) ∨
    (printable ch = true ∧
      (∃ g, putCharEffects s x y ch =
        wrapEffects s x y ++ drawGlyph s g (drawAt s x y).1 (drawAt s x y).2) ∧
      cursorAfter s x y ch = (columnAfter s (drawAt s x y).1, (drawAt s x y).2)) ∨
    (printable ch = false ∧ putCharEffects s x y ch = [] ∧ cursorAfter s x y ch = (x, y)) ∨
    (printable ch = true ∧ putCharEffects s x y ch = [.verdict .memRange] ∧ ¬ glyphInMemory s ch) := by
  by_cases hn : ch = newline
  · subst hn
    exact .inl ⟨by decide, putCharEffects_newline s x y, if_pos rfl⟩
  cases hch : printable ch with
  | false =>
    refine .inr (.inr (.inl ⟨rfl, putCharEffects_of_not_printable s x y hn hch, ?_⟩))
    rw [cursorAfter, if_neg hn, hch, if_neg Bool.false_ne_true]
  | true =>
    cases hg : glyphBytes s ch with
    | none =>
      refine .inr (.inr (.inr ⟨rfl, ?_, fun hglyph => ?_⟩))
      · simp only [putCharEffects, if_neg hn, if_pos hch, hg]
      · obtain ⟨g, hread⟩ := glyphBytes_of_glyphInMemory hglyph
        rw [hg] at hread
        cases hread
    | some g =>
      refine .inr (.inl ⟨rfl, ⟨g, ?_⟩, ?_⟩)
      · simp only [putCharEffects, if_neg hn, if_pos hch, hg, wrapEffects]
      · rw [cursorAfter, if_neg hn, if_pos hch]

theorem verdict_not_mem_writesOnly {es : List Effect} (h : WritesOnly es) (r : Verdict) : Effect.verdict r ∉ es := by
  intro hmem
  obtain ⟨w, hw⟩ := h _ hmem
  cases hw

/-- Drawing a glyph comes to no verdict of its own. -/
theorem verdict_not_mem_drawGlyph (s : State) (g : List Byte) (x y : Half) (r : Verdict) :
    Effect.verdict r ∉ drawGlyph s g x y := by
  simp only [drawGlyph, ← emits_append, List.mem_append, List.mem_singleton, reduceCtorEq, or_false]
  intro hmem
  obtain ⟨t, -, ht⟩ := mem_emits hmem
  cases ht

/-- A glyph's pixels are as many as its font's box. -/
theorem glyphColors_length (s : State) (g : List Byte) : (glyphColors s g).length = s.fontW.toNat * s.fontH.toNat := by
  rw [glyphColors, flatMap_rows_eq_map, List.length_map, List.length_range, mul_comm]

/-- A glyph drawn is its window's 11 tokens and two for each pixel (70_reset_and_hazards.md R280). -/
theorem effectTokens_drawGlyph_length (s : State) (g : List Byte) (x y : Half) :
    (effectTokens (drawGlyph s g x y)).length = 11 + 2 * (s.fontW.toNat * s.fontH.toNat) := by
  simp only [drawGlyph, effectTokens_append, effectTokens_emits, effectTokens_write, effectTokens_nil, List.append_nil,
    List.length_append, pixels_length, glyphColors_length]
  rfl

/-- The line advance before a character moves the cursor to where the character is drawn. -/
theorem applyWrites_wrapEffects_atCursor (s t : State) (xy : Half × Half) :
    applyWrites (wrapEffects s xy.1 xy.2) (t.atCursor xy) = t.atCursor (drawAt s xy.1 xy.2) := by
  unfold wrapEffects drawAt
  split <;> rfl

/-- Drawing a glyph moves the cursor past its cell. -/
theorem applyWrites_drawGlyph_atCursor (s t : State) (g : List Byte) (xy : Half × Half) :
    applyWrites (drawGlyph s g xy.1 xy.2) (t.atCursor xy) = t.atCursor (columnAfter s xy.1, xy.2) := by
  rw [drawGlyph, ← emits_append, applyWrites_append, applyWrites_emits]
  rfl

/-- The character's glyph, if it is one of the font's, lies in memory (42_glyph_text.md R181). -/
def readable (s : State) (ch : Byte) : Prop := printable ch = true → glyphInMemory s ch

theorem verdict_not_mem_putCharEffects {s : State} {ch : Byte} (h : readable s ch) (x y : Half) (r : Verdict) :
    Effect.verdict r ∉ putCharEffects s x y ch := by
  rcases putCharEffects_cases s x y ch with ⟨-, he, -⟩ | ⟨-, ⟨g, he⟩, -⟩ | ⟨-, he, -⟩ | ⟨hch, -, hglyph⟩
  · exact he ▸ verdict_not_mem_writesOnly (writesOnly_lineAdvance s y) r
  · rw [he, List.mem_append]
    rintro (hmem | hmem)
    · exact verdict_not_mem_writesOnly (writesOnly_wrapEffects s x y) r hmem
    · exact verdict_not_mem_drawGlyph s g _ _ r hmem
  · exact he ▸ List.not_mem_nil
  · exact absurd (h hch) hglyph

/-- A readable character offers its cell's tokens if it is printable, and none otherwise. -/
theorem effectTokens_putCharEffects_length {s : State} {ch : Byte} (h : readable s ch) (x y : Half) :
    (effectTokens (putCharEffects s x y ch)).length =
      if printable ch then 11 + 2 * (s.fontW.toNat * s.fontH.toNat) else 0 := by
  rcases putCharEffects_cases s x y ch with ⟨hch, he, -⟩ | ⟨hch, ⟨g, he⟩, -⟩ | ⟨hch, he, -⟩ | ⟨hch, -, hglyph⟩
  · rw [he, hch, (writesOnly_lineAdvance s y).effectTokens_eq]
    rfl
  · rw [he, hch, effectTokens_append, (writesOnly_wrapEffects s x y).effectTokens_eq, List.nil_append,
      effectTokens_drawGlyph_length, if_pos rfl]
  · rw [he, hch]
    rfl
  · exact absurd (h hch) hglyph

/-- A character that comes to no verdict of its own moves the cursor as `cursorAfter` says, and writes nothing else. -/
theorem applyWrites_putCharEffects {s : State} (t : State) {xy : Half × Half} {ch : Byte}
    (h : ∀ r, Effect.verdict r ∉ putCharEffects s xy.1 xy.2 ch) :
    applyWrites (putCharEffects s xy.1 xy.2 ch) (t.atCursor xy) = t.atCursor (cursorAfter s xy.1 xy.2 ch) := by
  rcases putCharEffects_cases s xy.1 xy.2 ch with ⟨-, he, hc⟩ | ⟨-, ⟨g, he⟩, hc⟩ | ⟨-, he, hc⟩ | ⟨-, he, -⟩
  · rw [he, hc]
    rfl
  · rw [he, hc, applyWrites_append, applyWrites_wrapEffects_atCursor, applyWrites_drawGlyph_atCursor]
  · rw [he, hc]
    rfl
  · exact absurd (he ▸ List.mem_singleton_self _) (h .memRange)

theorem verdict_not_mem_putCharsEffects {s : State} {chars : List Byte} (h : ∀ ch ∈ chars, readable s ch) (x y : Half)
    (r : Verdict) : Effect.verdict r ∉ putCharsEffects s x y chars := by
  induction chars generalizing x y with
  | nil => exact List.not_mem_nil
  | cons ch rest ih =>
    rw [putCharsEffects, List.mem_append]
    rintro (hmem | hmem)
    · exact verdict_not_mem_putCharEffects (h ch (.head _)) x y r hmem
    · exact ih (fun ch' h' => h ch' (.tail _ h')) _ _ hmem

/-- A string of readable characters offers a cell's tokens for each printable one (70_reset_and_hazards.md R280). -/
theorem effectTokens_putCharsEffects_length {s : State} {chars : List Byte} (h : ∀ ch ∈ chars, readable s ch) (x y : Half) :
    (effectTokens (putCharsEffects s x y chars)).length =
      chars.countP printable * (11 + 2 * (s.fontW.toNat * s.fontH.toNat)) := by
  induction chars generalizing x y with
  | nil => simp [putCharsEffects]
  | cons ch rest ih =>
    rw [putCharsEffects, effectTokens_append, List.length_append, effectTokens_putCharEffects_length (h ch (.head _)),
      ih (fun ch' h' => h ch' (.tail _ h')), List.countP_cons]
    split <;> ring

/-- A string of readable characters moves the cursor by each of them in order, and writes nothing else. -/
theorem applyWrites_putCharsEffects {s : State} {chars : List Byte} (h : ∀ ch ∈ chars, readable s ch) (t : State)
    (xy : Half × Half) :
    applyWrites (putCharsEffects s xy.1 xy.2 chars) (t.atCursor xy) = t.atCursor (cursorAfterChars s xy chars) := by
  induction chars generalizing xy with
  | nil => rfl
  | cons ch rest ih =>
    rw [putCharsEffects, applyWrites_append,
      applyWrites_putCharEffects t (verdict_not_mem_putCharEffects (h ch (.head _)) xy.1 xy.2),
      ih (fun ch' h' => h ch' (.tail _ h'))]
    rfl

/-- The bytes PUT_STRING consumes, as source memory holds them (42_glyph_text.md R189). -/
theorem effectsOf_putString {s : State} {addr : Word} {len : Half} (hfont : fontLegal s)
    (hmem : addr.toNat + min len.toNat (textMaxChars s.params.textMax) ≤ s.params.memSize) :
    effectsOf (.putString addr len) s = putCharsEffects s s.curX s.curY
      ((List.range (min len.toNat (textMaxChars s.params.textMax))).map fun k => readByte s.mem (addr.toNat + k)) := by
  have hread : memRead s addr.toNat (stringCount s len) = some _ := memRead_of_le hmem
  rw [effectsOf, putStringEffects, if_pos ((fontValid_iff s).2 hfont), hread]
  rfl

/-- Settles O46: the string's effects are its characters' in turn, none of which comes to a verdict of its own. -/
theorem putStringCompletes : Obligations.PutStringCompletes := by
  intro s addr len q chars hs hfont hmem hchars hglyphs hquiet ho
  have he := effectsOf_putString hfont hmem
  rw [← hchars] at he
  have hlength := effectTokens_putCharsEffects_length hglyphs s.curX s.curY
  have hwrites := applyWrites_putCharsEffects hglyphs s s.cursor
  obtain ⟨hcompletes, -⟩ := commandsComplete (.putString addr len) s hs
  rw [he] at hcompletes ho ⊢
  refine ⟨?_, hlength⟩
  rw [hcompletes q (verdict_not_mem_putCharsEffects hglyphs s.curX s.curY) (by rwa [hlength]) ho]
  exact congrArg (fun u : State => Host.Outcome.next (u.delivered _ q)) hwrites

end Sys2Proof.Machine
end

section
/-! PUT_STRING as its PUT_CHARs in turn: where a run of effects ends, more effects go on from there, or change nothing
(42_glyph_text.md R187, R189; 60_exceptions.md R241, R246). -/

namespace Sys2Proof.Machine

/-- These effects come to no verdict and are all run from `s`: whatever follows them runs with their writes made and their
tokens delivered. -/
def RunThrough (es : List Effect) (s : State) : Prop :=
  (∀ r, Effect.verdict r ∉ es) ∧
  ∃ q, ∀ f post, runEffects f (es ++ post) s = runEffects f post ((applyWrites es s).delivered (effectTokens es) q)

/-- These effects stop at `u`, in a verdict or a fault: whatever follows them is not run. -/
def StopAt (es : List Effect) (s u : State) : Prop :=
  (u.undef ≠ none ∨ u.fault = true) ∧ ∀ f post, runEffects f (es ++ post) s = u

/-- A verdict sets UNDEF, or it was set before (60_exceptions.md R246). -/
theorem setUndef_undef_ne_none (r : Verdict) (s : State) : (setUndef r s).undef ≠ none := by
  rw [setUndef_undef]
  split
  · exact Option.isSome_iff_ne_none.1 ‹_›
  · exact Option.some_ne_none r

theorem runEffects_failed {f : PortFrame} {t : Token} {es : List Effect} {s : State} (hd : nextDraw s = .answer .fail) :
    runEffects f (.emit t :: es) s = raiseFault .transport (losePanel (record t .fail s)) := by
  simp [runEffects, hd]

theorem runEffects_unanswered {f : PortFrame} {t : Token} {es : List Effect} {s : State}
    (hd : nextDraw s = .answer .never) :
    runEffects f (.emit t :: es) s = suspend f (.emit t :: es) .transport (record t .never s) := by
  simp [runEffects, hd]

/-- An effect that stops a run stops it whatever follows. -/
theorem stopAt_head {e : Effect} {s u : State} (hstop : u.undef ≠ none ∨ u.fault = true)
    (hstep : ∀ f post, runEffects f (e :: post) s = u) (es : List Effect) : StopAt (e :: es) s u :=
  ⟨hstop, fun f post => hstep f (es ++ post)⟩

/-- An effect before those that stop. -/
theorem StopAt.cons {e : Effect} {es : List Effect} {s s' u : State} (h : StopAt es s' u)
    (hstep : ∀ f post, runEffects f (e :: post) s = runEffects f post s') : StopAt (e :: es) s u :=
  ⟨h.1, fun f post => (hstep f (es ++ post)).trans (h.2 f post)⟩

/-- A register write before effects that run through. -/
theorem RunThrough.write {w : RegWrite} {es : List Effect} {s : State} (h : RunThrough es (writeRegister w s))
    (hp : nextDraw s ≠ .pause) : RunThrough (.write w :: es) s := by
  obtain ⟨hv, q, hrun⟩ := h
  exact ⟨fun r hmem => hv r (by simpa using hmem), q, fun f post => (runEffects_write hp).trans (hrun f post)⟩

/-- An accepted token before effects that run through. -/
theorem RunThrough.emit {t : Token} {es : List Effect} {s : State} {q : Panel}
    (h : RunThrough es (showPanel q (record t .ok s))) (hd : nextDraw s = .answer .ok)
    (ho : observe s.params t s.panel = .ok q) : RunThrough (.emit t :: es) s := by
  obtain ⟨hv, q', hrun⟩ := h
  refine ⟨fun r hmem => hv r (by simpa using hmem), q', fun f post => ?_⟩
  have hstate : (applyWrites es (showPanel q (record t .ok s))).delivered (effectTokens es) q' =
      (applyWrites (.emit t :: es) s).delivered (effectTokens (.emit t :: es)) q' := by
    rw [applyWrites_record]
    simp [State.delivered, showPanel, record, applyWrites]
  rw [List.cons_append, runEffects_accepted hd ho, hrun, hstate]

/-- A run that does not wait has gone through its effects, or has stopped at one of them (60_exceptions.md R241, R246). -/
theorem runEffects_ended (f : PortFrame) (es : List Effect) (s : State) (hend : (runEffects f es s).busy = false) :
    RunThrough es s ∨ StopAt es s (runEffects f es s) := by
  induction es generalizing s with
  | nil => exact .inl ⟨fun _ => List.not_mem_nil, s.panel, fun g post => by simp [applyWrites, State.delivered]⟩
  | cons e es ih =>
    have hp : nextDraw s ≠ .pause := fun hp => by
      rw [runEffects_pause f _ s hp] at hend
      cases hend
    cases e with
    | write w =>
      rw [runEffects_write hp] at hend ⊢
      exact (ih _ hend).imp (·.write hp) (·.cons fun _ _ => runEffects_write hp)
    | verdict r =>
      rw [runEffects_verdict hp]
      exact .inr (stopAt_head (.inl (setUndef_undef_ne_none r s)) (fun _ _ => runEffects_verdict hp) es)
    | illegalCmd =>
      rw [runEffects_illegalCmd hp]
      exact .inr (stopAt_head (.inr rfl) (fun _ _ => runEffects_illegalCmd hp) es)
    | emit t =>
      rcases hd : nextDraw s with (_ | _ | _) | _
      case answer.ok =>
        rcases ho : observe s.params t s.panel with r | q
        · rw [runEffects_rejected hd ho]
          exact .inr (stopAt_head (.inl (setUndef_undef_ne_none r _)) (fun _ _ => runEffects_rejected hd ho) es)
        · rw [runEffects_accepted hd ho] at hend ⊢
          exact (ih _ hend).imp (·.emit hd ho) (·.cons fun _ _ => runEffects_accepted hd ho)
      case answer.fail =>
        rw [runEffects_failed hd]
        exact .inr (stopAt_head (.inr rfl) (fun _ _ => runEffects_failed hd) es)
      case answer.never =>
        rw [runEffects_unanswered hd] at hend
        cases hend
      case pause => exact absurd hd hp

/-- The command `i` has completed at `u` from `s`: no verdict of its own, its writes made, its tokens delivered, no move of the
host there; and more effects than its own would go on from `u`. -/
structure Completed (i : Instr) (s u : State) : Prop where
  noVerdict : ∀ r, Effect.verdict r ∉ effectsOf i s
  delivered : ∃ q, u = (applyWrites (effectsOf i s) s).delivered (effectTokens (effectsOf i s)) q
  notPaused : nextDraw u ≠ .pause
  goesOn : ∀ f post, runEffects f (effectsOf i s ++ post) { s with busy := true } =
    runEffects f post { u with busy := true }

/-- A command that does not wait has completed, or has stopped at one of its effects (60_exceptions.md R241, R246). -/
theorem exec_ended {i : Instr} {s u : State} (hs : s.accepting) (hexec : exec i s = .next u) (hbusy : u.busy = false) :
    Completed i s u ∨ StopAt (effectsOf i s) { s with busy := true } u := by
  rw [exec_accepting hs] at hexec
  obtain rfl := Host.Outcome.next.inj hexec
  rcases runEffects_ended _ _ _ hbusy with ⟨hv, q, hrun⟩ | hstop
  · have hidle := idle_delivered hs.1 (effectsOf i s) (effectTokens (effectsOf i s)) q
    have hbusily : (applyWrites (effectsOf i s) { s with busy := true }).delivered (effectTokens (effectsOf i s)) q =
        { (applyWrites (effectsOf i s) s).delivered (effectTokens (effectsOf i s)) q with busy := true } := by
      rw [applyWrites_busy]
      rfl
    rw [hbusily] at hrun
    generalize hu : (applyWrites (effectsOf i s) s).delivered (effectTokens (effectsOf i s)) q = u at hidle hrun
    have hend := hrun (.command i) []
    rw [List.append_nil] at hend
    rw [hend] at hbusy ⊢
    have hp : nextDraw u ≠ .pause := fun hp => by
      rw [runEffects_pause (s := { u with busy := true }) _ _ hp] at hbusy
      cases hbusy
    rw [runEffects_nil (s := { u with busy := true }) hp, endCommand_idle hidle]
    exact .inl ⟨hv, ⟨q, hu.symm⟩, hp, hrun⟩
  · exact .inr hstop

/-- A command that completes stops at none of its effects. -/
theorem Completed.good {i : Instr} {s u : State} (h : Completed i s u) (hs : s.accepting) : u.idle ∧ u.fault = false := by
  obtain ⟨-, ⟨q, rfl⟩, -, -⟩ := h
  obtain ⟨-, -, hfault, -⟩ := applyWrites_keep (effectsOf i s) s
  exact ⟨idle_delivered hs.1 _ _ q, hfault.trans hs.2.1⟩

/-- A command that ends well has completed. -/
theorem completed_of_good {i : Instr} {s u : State} (hs : s.accepting) (hexec : exec i s = .next u) (hgood : u.goodFinal)
    (hfault : u.fault = false) : Completed i s u := by
  obtain ⟨hundef, hbusy⟩ := hgood
  rcases exec_ended hs hexec hbusy with hdone | ⟨hstop | hstop, -⟩
  · exact hdone
  · exact absurd hundef hstop
  · exact absurd (hfault.symm.trans hstop) Bool.false_ne_true

/-- A command that ends in a verdict or a fault has stopped at one of its effects. -/
theorem stopAt_of_stopped {i : Instr} {s u : State} (hs : s.accepting) (hexec : exec i s = .next u) (hbusy : u.busy = false)
    (hstop : u.undef ≠ none ∨ u.fault = true) : StopAt (effectsOf i s) { s with busy := true } u := by
  rcases exec_ended hs hexec hbusy with hdone | hstopped
  · obtain ⟨⟨hundef, -, -⟩, hfault⟩ := hdone.good hs
    rcases hstop with hstop | hstop
    · exact absurd hundef hstop
    · exact absurd (hfault.symm.trans hstop) Bool.false_ne_true
  · exact hstopped

/-- FAULT stays until a reset, which is no command (60_exceptions.md R241). -/
theorem fault_before_exec {i : Instr} {s u : State} (hexec : exec i s = .next u) (hfault : u.fault = false) :
    s.fault = false := by
  obtain ⟨hcommands, -⟩ := commandsWriteOnlyTheirRegisters
  obtain ⟨-, hkeep | ⟨hs, -⟩⟩ := hcommands i s u hexec
  · exact (congrArg Prod.fst hkeep).symm.trans hfault
  · exact hs

/-- Where PUT_CHARs in turn end well, they began well: nothing goes on after a verdict, a wait or a fault. -/
theorem good_before_putCharsInTurn {chars : List Byte} {s t : State} (h : putCharsInTurn chars s = some t)
    (hgood : t.goodFinal) (hfault : t.fault = false) : s.goodFinal ∧ s.fault = false := by
  induction chars generalizing s with
  | nil =>
    cases h
    exact ⟨hgood, hfault⟩
  | cons ch rest ih =>
    rw [putCharsInTurn] at h
    split at h
    · rename_i u hexec
      obtain ⟨-, hu⟩ := ih h
      obtain ⟨hundef, hbusy, -⟩ := accept_cases ((exec_eq _ _).symm.trans hexec)
      exact ⟨⟨hundef, hbusy⟩, fault_before_exec hexec hu⟩
    · cases h
    · cases h

/-- PUT_CHARs in turn have completed at `t` from `s`: their cursor moves made, some tokens delivered, no move of the host there;
and the effects that would follow theirs in one frame go on from `t` (42_glyph_text.md R189). -/
structure CompletedInTurn (chars : List Byte) (s t : State) : Prop where
  delivered : ∃ ts q, t = (s.atCursor (cursorAfterChars s s.cursor chars)).delivered ts q
  notPaused : nextDraw t ≠ .pause
  goesOn : ∀ f post, runEffects f (putCharsEffects s s.curX s.curY chars ++ post) { s with busy := true } =
    runEffects f post { t with busy := true }

/-- A completed PUT_CHAR is a turn of one character. -/
theorem Completed.putChar {s u : State} {ch : Byte} (hfont : fontLegal s) (h : Completed (.putChar ch) s u) :
    CompletedInTurn [ch] s u := by
  obtain ⟨hv, ⟨q, hu⟩, hp, hrun⟩ := h
  rw [effectsOf_putChar_of_fontLegal hfont] at hv hu hrun
  have hwrites := applyWrites_putCharEffects s (xy := s.cursor) hv
  refine ⟨⟨_, q, hu.trans (congrArg (fun v : State => v.delivered _ q) hwrites)⟩, hp, fun f post => ?_⟩
  rw [putCharsEffects, putCharsEffects, List.append_nil]
  exact hrun f post

/-- A completed turn leaves a machine that takes the next frame, with the font and all else the characters depend on as it was. -/
theorem CompletedInTurn.accepting {chars : List Byte} {s t : State} (h : CompletedInTurn chars s t) (hs : s.accepting)
    (hfont : fontLegal s) : t.accepting ∧ fontLegal t := by
  obtain ⟨⟨ts, q, rfl⟩, -, -⟩ := h
  exact ⟨hs, hfont⟩

/-- Two strings, one after the other. -/
theorem putCharsEffects_append (s : State) (xy : Half × Half) (pre post : List Byte) :
    putCharsEffects s xy.1 xy.2 (pre ++ post) = putCharsEffects s xy.1 xy.2 pre ++
      putCharsEffects s (cursorAfterChars s xy pre).1 (cursorAfterChars s xy pre).2 post := by
  induction pre generalizing xy with
  | nil => rfl
  | cons ch pre ih =>
    rw [List.cons_append, putCharsEffects, ih, putCharsEffects, List.append_assoc]
    rfl

/-- After a completed turn the rest of the string has the effects it has from there on its own. -/
theorem CompletedInTurn.putCharsEffects_eq {pre : List Byte} {s t : State} (h : CompletedInTurn pre s t) (post : List Byte) :
    putCharsEffects s s.curX s.curY (pre ++ post) =
      putCharsEffects s s.curX s.curY pre ++ putCharsEffects t t.curX t.curY post := by
  obtain ⟨⟨ts, q, rfl⟩, -, -⟩ := h
  rw [putCharsEffects_congr (s := s) (t := (s.atCursor _).delivered ts q) rfl rfl rfl rfl]
  exact putCharsEffects_append s s.cursor pre post

/-- Completed turns compose. -/
theorem CompletedInTurn.append {pre post : List Byte} {s t u : State} (h : CompletedInTurn pre s t)
    (h' : CompletedInTurn post t u) : CompletedInTurn (pre ++ post) s u := by
  refine ⟨?_, h'.notPaused, fun f rest => ?_⟩
  · obtain ⟨⟨ts, q, rfl⟩, -, -⟩ := h
    obtain ⟨⟨ts', q', rfl⟩, -, -⟩ := h'
    refine ⟨ts ++ ts', q', ?_⟩
    have hcursor : cursorAfterChars ((s.atCursor (cursorAfterChars s s.cursor pre)).delivered ts q)
        ((s.atCursor (cursorAfterChars s s.cursor pre)).delivered ts q).cursor post =
        cursorAfterChars s s.cursor (pre ++ post) :=
      (List.foldl_append (l := pre)).symm
    rw [hcursor]
    simp [State.delivered, State.atCursor]
  · rw [h.putCharsEffects_eq, List.append_assoc, h.goesOn, h'.goesOn]

/-- PUT_CHARs in turn that end well have completed, each where the next one begins. -/
theorem completedInTurn_of_putCharsInTurn {chars : List Byte} {s t : State} (hs : s.accepting) (hfont : fontLegal s)
    (hp : nextDraw s ≠ .pause) (h : putCharsInTurn chars s = some t) (hgood : t.goodFinal) (hfault : t.fault = false) :
    CompletedInTurn chars s t := by
  induction chars generalizing s with
  | nil =>
    cases h
    exact ⟨⟨[], t.panel, by simp [State.delivered, State.atCursor, cursorAfterChars, State.cursor]⟩, hp, fun f post => rfl⟩
  | cons ch rest ih =>
    rw [putCharsInTurn] at h
    split at h
    · rename_i u hexec
      obtain ⟨hu, hufault⟩ := good_before_putCharsInTurn h hgood hfault
      have hfirst := (completed_of_good hs hexec hu hufault).putChar hfont
      obtain ⟨hacc, hfont'⟩ := hfirst.accepting hs hfont
      exact hfirst.append (ih hacc hfont' hfirst.notPaused h)
    · cases h
    · cases h

/-- Settles O47: the string's effects run through those of the PUT_CHARs that complete, and stop where the first other stops. -/
theorem putStringIsPutCharsInTurn : Obligations.PutStringIsPutCharsInTurn := by
  intro s addr len chars hs hquiet hfont hmem hchars
  have hstring : exec (.putString addr len) s = .next (runEffects (.command (.putString addr len))
      (putCharsEffects s s.curX s.curY chars) { s with busy := true }) := by
    rw [exec_accepting hs, effectsOf_putString hfont hmem, ← hchars]
  refine ⟨fun t hturn hgood hfault => ?_, fun pre post ch t u hsplit hturn hgood hfault hexec hbusy hstop => ?_⟩
  · have hdone := completedInTurn_of_putCharsInTurn hs hfont (quiet_draw hquiet) hturn hgood hfault
    obtain ⟨⟨hidle, -⟩, -⟩ := hdone.accepting hs hfont
    have hrun := hdone.goesOn (.command (.putString addr len)) []
    rw [List.append_nil, runEffects_nil (s := { t with busy := true }) hdone.notPaused, endCommand_idle hidle] at hrun
    rw [hstring, hrun]
  · have hdone := completedInTurn_of_putCharsInTurn hs hfont (quiet_draw hquiet) hturn hgood hfault
    obtain ⟨hacc, hfont'⟩ := hdone.accepting hs hfont
    obtain ⟨-, hrun⟩ := stopAt_of_stopped hacc hexec hbusy hstop
    rw [effectsOf_putChar_of_fontLegal hfont'] at hrun
    rw [hstring, hsplit, hdone.putCharsEffects_eq, hdone.goesOn, putCharsEffects, hrun]

end Sys2Proof.Machine
end

section
/-! BLIT: its tokens read from source memory, and the image they show (20_memory.md R54; 30_encoding.md R91; 43_image_blit.md
R230, R231). -/

namespace Sys2Proof.Machine

/-- BLIT's tokens: its window, and the image's bytes in increasing address order (43_image_blit.md R230). -/
def blitTokens (s : State) (x y w h : Half) (addr : Word) : List Token :=
  windowTokens s.params (coord x) (coord y) (coord x + coord w - 1) (coord y + coord h - 1) ++
    (List.range (2 * w.toNat * h.toNat)).map fun k => dataToken (readByte s.mem (addr.toNat + k))

/-- The color of pixel `j` of an image in source memory: a big-endian pair of bytes (20_memory.md R54). -/
def imageColor (s : State) (addr : Word) (j : Nat) : Half :=
  be16 (readByte s.mem (addr.toNat + 2 * j)) (readByte s.mem (addr.toNat + 2 * j + 1))

/-- The first `n` pixels of an image in source memory. -/
def imageColors (s : State) (addr : Word) (n : Nat) : List Half := (List.range n).map (imageColor s addr)

theorem imageColors_length (s : State) (addr : Word) (n : Nat) : (imageColors s addr n).length = n := by
  rw [imageColors, List.length_map, List.length_range]

theorem getElem?_imageColors (s : State) (addr : Word) {n j : Nat} (hj : j < n) :
    (imageColors s addr n)[j]? = some (imageColor s addr j) := by
  rw [imageColors, List.getElem?_map, List.getElem?_range hj, Option.map_some]

/-- A pixel's two tokens are the bytes its color is made of (30_encoding.md R91). -/
theorem pixelTokens_be16 (a b : Byte) : pixelTokens (be16 a b) = [dataToken a, dataToken b] :=
  congrArg (List.map dataToken) (bytes16_be16 a b)

/-- An image's bytes, two by two, are its pixels' tokens (20_memory.md R54, 43_image_blit.md R231). -/
theorem imageColors_flatMap_pixelTokens (s : State) (addr : Word) (n : Nat) :
    (imageColors s addr n).flatMap pixelTokens =
      (List.range (2 * n)).map fun k => dataToken (readByte s.mem (addr.toNat + k)) := by
  induction n with
  | zero => rfl
  | succ n ih =>
    have hbytes : List.range (2 * (n + 1)) = List.range (2 * n) ++ [2 * n, 2 * n + 1] := by
      simp [Nat.mul_succ, List.range_succ]
    have hpixels : imageColors s addr (n + 1) = imageColors s addr n ++ [imageColor s addr n] := by
      simp [imageColors, List.range_succ]
    rw [hpixels, List.flatMap_append, ih, hbytes, List.map_append, List.flatMap_singleton, imageColor, pixelTokens_be16]
    rfl

/-- BLIT's tokens are those of its window and its pixels. -/
theorem blitTokens_eq_pixels (s : State) (x y w h : Half) (addr : Word) :
    blitTokens s x y w h addr =
      windowTokens s.params (coord x) (coord y) (coord x + coord w - 1) (coord y + coord h - 1) ++
        (imageColors s addr (w.toNat * h.toNat)).flatMap pixelTokens := by
  rw [imageColors_flatMap_pixelTokens, ← Nat.mul_assoc, blitTokens]

/-- BLIT has its window's 11 tokens and one for each byte of the image. -/
theorem blitTokens_length (s : State) (x y w h : Half) (addr : Word) :
    (blitTokens s x y w h addr).length = 11 + 2 * w.toNat * h.toNat := by
  rw [blitTokens, List.length_append, List.length_map, List.length_range]
  rfl

/-- BLIT on an image in memory offers its tokens (43_image_blit.md R230). -/
theorem effectsOf_blit_eq_emits {s : State} {x y w h : Half} {addr : Word} (hw : w ≠ 0) (hh : h ≠ 0)
    (hmem : addr.toNat + 2 * w.toNat * h.toNat ≤ s.params.memSize) :
    effectsOf (.blit x y w h addr) s = emits (blitTokens s x y w h addr) := by
  rw [effectsOf, blitEffects, if_neg (not_or.2 ⟨hw, hh⟩), memRead_of_le hmem]
  simp only [List.map_map]
  rfl

/-- A BLIT of an image in memory whose tokens are all accepted delivers them and changes no register. -/
theorem exec_blit {s : State} {x y w h : Half} {addr : Word} {q : Panel} (hs : s.accepting) (hw : w ≠ 0) (hh : h ≠ 0)
    (hmem : addr.toNat + 2 * w.toNat * h.toNat ≤ s.params.memSize) (hquiet : s.quiet (11 + 2 * w.toNat * h.toNat))
    (ho : observeAll s.params (blitTokens s x y w h addr) s.panel = .ok q) :
    exec (.blit x y w h addr) s = .next (s.delivered (blitTokens s x y w h addr) q) :=
  exec_emits hs (effectsOf_blit_eq_emits hw hh hmem) (by rwa [blitTokens_length]) ho

/-- Settles O29: the command's effects are its window and the bytes read, which are delivered. -/
theorem blitStreamsVerbatim : Obligations.BlitStreamsVerbatim := by
  intro s x y w h addr q ts hs hw hh hmem hts hquiet ho
  subst hts
  exact exec_blit hs hw hh hmem hquiet ho

/-- Settles O30: the bytes, two by two, are the pixels that fill the window. -/
theorem blitPaintsTheImage : Obligations.BlitPaintsTheImage := by
  intro s x y w h addr hs hw hh hmem hquiet hq hp hfit hx hy
  have hw' : 0 < w.toNat := Nat.pos_of_ne_zero (BitVec.toNat_ne.1 hw)
  have hh' : 0 < h.toNat := Nat.pos_of_ne_zero (BitVec.toNat_ne.1 hh)
  obtain ⟨⟨hundef, hbusy, -⟩, hfault, -⟩ := id hs
  obtain ⟨q, ho, hfull, hlost, hpixel, hout⟩ :=
    observeAll_box hq hp hfit hw' hh' hx hy (imageColors_length s addr (w.toNat * h.toNat))
  have hexec := exec_blit hs hw hh hmem hquiet ((blitTokens_eq_pixels s x y w h addr).symm ▸ ho)
  refine ⟨_, hexec, ⟨hundef, hbusy⟩, hfault, hfull, fun j hj => ?_, fun px py h => ?_⟩
  · exact (if_neg (ne_true_of_eq_false hlost)).trans ((hpixel j hj).trans (getElem?_imageColors s addr hj))
  · simpa [panelPixel, hlost, hq.1] using hout px py h

end Sys2Proof.Machine
end

section
/-! The commands' own verdicts: each check that fails is the command's one effect, or a string's first after those of the
characters before it (20_memory.md R52; 41_rasterizer.md R149; 42_glyph_text.md R188, R189, R192; 43_image_blit.md R230). -/

namespace Sys2Proof.Machine

/-- A read past the top of source memory gives no bytes (20_memory.md R52). -/
theorem memRead_of_lt {s : State} {addr n : Nat} (h : s.params.memSize < addr + n) : memRead s addr n = none := if_pos h

/-- No move of the host lands where the next draw is an answer. -/
theorem quiet_zero_of_nextDraw {s : State} (h : nextDraw s ≠ .pause) : s.quiet 0 := by
  refine ⟨rfl, fun hp => h ?_⟩
  rw [← List.head?_eq_getElem?] at hp
  rw [nextDraw, List.headD_eq_head?_getD, hp, Option.getD_some]

theorem effectsOf_blit_of_zero {w h : Half} (hsize : w = 0 ∨ h = 0) (x y : Half) (addr : Word) (s : State) :
    effectsOf (.blit x y w h addr) s = [.verdict .zeroBlit] := if_pos hsize

theorem effectsOf_blit_of_memSize_lt {s : State} {w h : Half} {addr : Word} (hw : w ≠ 0) (hh : h ≠ 0)
    (hmem : s.params.memSize < addr.toNat + 2 * w.toNat * h.toNat) (x y : Half) :
    effectsOf (.blit x y w h addr) s = [.verdict .memRange] := by
  rw [effectsOf, blitEffects, if_neg (not_or.2 ⟨hw, hh⟩), memRead_of_lt hmem]

theorem effectsOf_drawRect_of_zero {w h : Half} (hsize : w = 0 ∨ h = 0) (x y c : Half) (s : State) :
    effectsOf (.drawRect x y w h c) s = [.verdict .zeroRect] := if_pos hsize

/-- A printable character whose glyph is not in memory comes to its verdict before its line advance (42_glyph_text.md R187). -/
theorem effectsOf_putChar_of_not_glyphInMemory {s : State} {ch : Byte} (hfont : fontLegal s) (hlo : 32 ≤ ch.toNat)
    (hhi : ch.toNat ≤ 127) (hglyph : ¬ glyphInMemory s ch) : effectsOf (.putChar ch) s = [.verdict .memRange] := by
  have hch := (printable_iff ch).2 ⟨hlo, hhi⟩
  have hread : glyphBytes s ch = none := memRead_of_lt (not_le.1 hglyph)
  rw [effectsOf_putChar_of_fontLegal hfont, putCharEffects, if_neg (ne_newline_of_printable hch), if_pos hch, hread]

theorem effectsOf_putString_of_memSize_lt {s : State} {addr : Word} {len : Half} (hfont : fontLegal s)
    (hmem : s.params.memSize < addr.toNat + min len.toNat (textMaxChars s.params.textMax)) :
    effectsOf (.putString addr len) s = [.verdict .memRange] := by
  have hread : memRead s addr.toNat (stringCount s len) = none := memRead_of_lt hmem
  rw [effectsOf, putStringEffects, if_pos ((fontValid_iff s).2 hfont), hread]

theorem effectsOf_drawCjk_of_count_le {s : State} {index : Half} (hindex : s.cjkCount.toNat ≤ index.toNat) (x y c : Half) :
    effectsOf (.drawCjk x y index c) s = [.verdict .cjkIndex] := if_pos hindex

theorem effectsOf_drawCjk_of_memSize_lt {s : State} {index : Half} (hindex : index.toNat < s.cjkCount.toNat)
    (hmem : s.params.memSize < s.cjkBase.toNat + 32 * index.toNat + 32) (x y c : Half) :
    effectsOf (.drawCjk x y index c) s = [.verdict .memRange] := by
  rw [effectsOf, drawCjkEffects, if_neg (not_le.2 hindex), cjkEntry, memRead_of_lt hmem]

/-- PUT_CHARs in turn leave a glyph in memory where it was. -/
theorem CompletedInTurn.glyphInMemory_iff {chars : List Byte} {s t : State} (h : CompletedInTurn chars s t) (ch : Byte) :
    glyphInMemory t ch ↔ glyphInMemory s ch := by
  obtain ⟨⟨ts, q, rfl⟩, -, -⟩ := h
  exact Iff.rfl

/-- Settles O40: a failed check is the command's one effect; inside a string it is that of the PUT_CHAR the string ends at. -/
theorem commandVerdictsComeFirst : Obligations.CommandVerdictsComeFirst := by
  intro s hs hquiet
  refine ⟨fun x y w h addr hsize => exec_ownVerdict hs hquiet (effectsOf_blit_of_zero hsize x y addr s),
    fun x y w h addr hw hh hmem => exec_ownVerdict hs hquiet (effectsOf_blit_of_memSize_lt hw hh hmem x y),
    fun x y w h c hsize => exec_ownVerdict hs hquiet (effectsOf_drawRect_of_zero hsize x y c s),
    fun ch hfont hlo hhi hglyph =>
      exec_ownVerdict hs hquiet (effectsOf_putChar_of_not_glyphInMemory hfont hlo hhi hglyph),
    fun addr len hfont hmem => exec_ownVerdict hs hquiet (effectsOf_putString_of_memSize_lt hfont hmem),
    fun x y index c hindex => exec_ownVerdict hs hquiet (effectsOf_drawCjk_of_count_le hindex x y c),
    fun x y index c hindex hmem => exec_ownVerdict hs hquiet (effectsOf_drawCjk_of_memSize_lt hindex hmem x y c),
    fun addr len pre post ch t hfont hmem hchars hlo hhi hglyph hturn hgood hfault => ?_⟩
  have hdone := completedInTurn_of_putCharsInTurn hs hfont (quiet_draw hquiet) hturn hgood hfault
  obtain ⟨hacc, hfont'⟩ := hdone.accepting hs hfont
  have hglyph' : ¬ glyphInMemory t ch := mt (hdone.glyphInMemory_iff ch).1 hglyph
  have hexec := exec_ownVerdict hacc (quiet_zero_of_nextDraw hdone.notPaused)
    (effectsOf_putChar_of_not_glyphInMemory hfont' hlo hhi hglyph')
  obtain ⟨-, hstops⟩ := putStringIsPutCharsInTurn s addr len _ hs hquiet hfont hmem rfl
  exact hstops pre post ch t _ hchars hturn hgood hfault hexec hgood.2 (.inl (Option.some_ne_none _))

end Sys2Proof.Machine
end

section
/-! Dispatch of a frame on a state that does not run its effects, and a reserved opcode's frame at the port (30_encoding.md R86;
60_exceptions.md R244-R249; 70 R272). -/

namespace Sys2Proof.Machine

/-- With BUSY = 0 and no verdict a step is the idle block's (60_exceptions.md R257). -/
theorem step_idle {s : State} (hu : s.undef = none) (hb : s.busy = false) : step s = stepIdle exec s := by
  simp [step, machineStep, hu, hb]

/-- A reserved opcode presented alone is a whole frame (30_encoding.md R86). -/
theorem decode_reservedOpcode {opcode : Byte} (h : reservedOpcode opcode = true) : decode [opcode] = .reserved opcode [] := by
  rw [← frameLength_eq_none_iff] at h
  simp only [decode, h]

/-- The step at a presented reserved opcode is the acceptance of its frame, whose one effect is the illegal command
(60_exceptions.md R244). -/
theorem step_reserved {s : State} {opcode : Byte} {moves : List HostMove} (hu : s.undef = none) (hb : s.busy = false)
    (hh : s.host = .send [opcode] :: moves) (hreserved : reservedOpcode opcode = true) :
    step s = accept (.reserved opcode) (fun _ => [.illegalCmd]) { s with host := moves } := by
  rw [step_idle hu hb, stepIdle, hh]
  simp only [takeFrame, decode_reservedOpcode hreserved]
  rfl

/-- While FAULT = 1 a frame is discarded: it has no effect to run (60_exceptions.md R245, R249 step 1). -/
theorem accept_faulted {f : PortFrame} {own : State → List Effect} {s : State} (hs : s.idle) (hquiet : s.quiet 0)
    (hf : s.fault = true) : accept f own s = .next s := by
  have hnone : dispatchEffects (own s) s = [] := if_pos hf
  rw [accept_idle hs, hnone, runEffects_nil (quiet_draw (s := { s with busy := true }) hquiet), endCommand_idle hs]

/-- While READY = 0 a frame's one effect is the verdict, whatever its own effects are (60_exceptions.md R249 step 2). -/
theorem accept_notReady {f : PortFrame} {own : State → List Effect} {s : State} (hs : s.idle) (hquiet : s.quiet 0)
    (hf : s.fault = false) (hr : s.ready = false) : accept f own s = .next { s with undef := some .notReady } := by
  have hverdict : dispatchEffects (own s) s = [.verdict .notReady] := by simp [dispatchEffects, hf, hr]
  rw [accept_idle hs, hverdict, runEffects_verdict (quiet_draw (s := { s with busy := true }) hquiet), setUndef_idle hs]

/-- A fault on a machine that was idle and without a fault before the frame changes the fault registers alone
(60_exceptions.md R241). -/
theorem raiseFault_idle {s : State} (hs : s.idle) (hf : s.fault = false) (code : FaultCode) :
    raiseFault code { s with busy := true } = { s with fault := true, faultCode := code } := by
  obtain ⟨-, hb, hw⟩ := hs
  have hcode : (if s.fault then s.faultCode else code) = code := if_neg (ne_true_of_eq_false hf)
  show { s with faultCode := if s.fault then s.faultCode else code, fault := true, busy := false, work := none } = _
  rw [hcode, ← hb, ← hw]

/-- While FAULT = 1 a further fault leaves the fault registers as they were at an earlier state (60_exceptions.md R241). -/
theorem raiseFault_keeps_faults {s u : State} (hf : s.fault = true) (h : u.faults = s.faults) (code : FaultCode) :
    (raiseFault code u).faults = s.faults := by
  have hu : u.fault = true := (congrArg Prod.fst h).trans hf
  rcases raiseFault_faults code u with ⟨-, hkeep⟩ | ⟨hnot, -⟩
  · exact hkeep.trans h
  · exact absurd (hnot.symm.trans hu) Bool.false_ne_true

/-- While FAULT = 1 no run of effects, of any frame, changes the fault registers: only faults write them, and the first code
stays (60_exceptions.md R241). -/
theorem runEffects_keeps_faults (f : PortFrame) (es : List Effect) {s : State} (hf : s.fault = true) :
    (runEffects f es s).faults = s.faults :=
  runEffects_induction (P := fun u => u.faults = s.faults) (Q := fun u => u.faults = s.faults) f es
    (hwrite := fun w u _ h => by simpa [State.faults] using h)
    (hok := fun _ _ _ _ _ h => h)
    (hend := fun _ h => h)
    (hverdict := fun _ _ h => h)
    (hillegal := fun _ _ h => raiseFault_keeps_faults hf h .illegalCmd)
    (hobs := fun _ _ _ h => h)
    (hfail := fun t u h => raiseFault_keeps_faults (u := losePanel (record t .fail u)) hf h .transport)
    (hnever := fun _ _ _ _ h => h)
    (hpause := fun _ _ _ h => h)
    s rfl

/-- While FAULT = 1 a resumed execution leaves the fault registers alone. -/
theorem resume_keeps_faults {s : State} (hf : s.fault = true) : (resume s).faults = s.faults := by
  unfold resume
  split
  · exact runEffects_keeps_faults _ _ hf
  · rfl

/-- While FAULT = 1 a step leaves the fault registers alone, unless the host resets (60_exceptions.md R245). -/
theorem step_keeps_faults {s t : State} (hf : s.fault = true) (h : step s = .next t) :
    t.faults = s.faults ∨ ∃ moves, s.host = .reset :: moves := by
  obtain ⟨-, hcases⟩ := step_cases h
  rcases hcases with ⟨-, -, rfl⟩ | ⟨-, bytes, moves, -, htake⟩ | ⟨-, a, v, moves, -, -, rfl⟩ |
    ⟨n, moves, -, rfl | rfl⟩ | ⟨moves, -, rfl | rfl⟩ | ⟨moves, hh, rfl⟩ | ⟨-, rfl⟩
  · exact .inl rfl
  · rcases takeFrame_cases htake with rfl | ⟨f, es, left, -, rfl⟩
    · exact .inl rfl
    · exact .inl (runEffects_keeps_faults f es (s := { withHost left s with busy := true }) hf)
  · exact .inl rfl
  · exact .inl rfl
  · exact .inl (resume_keeps_faults (s := portRead n (withHost moves s)) hf)
  · exact .inl rfl
  · exact .inl (resume_keeps_faults (s := raiseReady (withHost moves s)) hf)
  · exact .inr ⟨moves, hh⟩
  · exact .inl (resume_keeps_faults hf)

/-- Settles O7: a discarded frame has no effect to run; and a step changes the fault registers only by a fault, which keeps
the first code, or by a reset. -/
theorem faultedBlockRefusesFrames : Obligations.FaultedBlockRefusesFrames := by
  refine ⟨fun i s hs hquiet hf => ?_, fun s opcode moves hs hquiet hf hh hreserved => ?_, fun s t hf h => ?_⟩
  · rw [exec_eq, accept_faulted hs hquiet hf]
  · rw [step_reserved hs.1 hs.2.1 hh hreserved, accept_faulted (s := { s with host := moves }) hs hquiet hf]
  · refine (step_keeps_faults hf h).imp_left fun hkeep => ?_
    obtain ⟨hfault, hcode⟩ := Prod.mk.inj hkeep
    exact ⟨hfault.trans hf, hcode⟩

/-- Settles O6: on a state that takes frames the frame's one effect is run. -/
theorem reservedOpcodeFaults : Obligations.ReservedOpcodeFaults := by
  intro s opcode moves hs hquiet hh hreserved
  obtain ⟨hidle, hf, hr⟩ := hs
  rw [step_reserved hidle.1 hidle.2.1 hh hreserved, accept_idle (s := { s with host := moves }) hidle,
    dispatchEffects_accepting (s := { s with host := moves }) ⟨hidle, hf, hr⟩,
    runEffects_illegalCmd (quiet_draw (s := { s with host := moves, busy := true }) hquiet)]
  exact congrArg Host.Outcome.next (raiseFault_idle (s := { s with host := moves }) hidle hf .illegalCmd)

/-- Settles O8: a command's frame and a reserved opcode's come to the same verdict at dispatch. -/
theorem notReadyVerdict : Obligations.NotReadyVerdict := by
  intro s hs hquiet hf hr
  refine ⟨fun i => ?_, fun opcode moves hh hreserved => ?_⟩
  · rw [exec_eq, accept_notReady hs hquiet hf hr]
  · rw [step_reserved hs.1 hs.2.1 hh hreserved, accept_notReady (s := { s with host := moves }) hs hquiet hf hr]

/-- Settles O9: the step and the acceptance of a frame look at UNDEF first. -/
theorem noStepAfterVerdict : Obligations.NoStepAfterVerdict := by
  intro s r hr
  refine ⟨by simp only [step, machineStep, hr], fun i => ?_⟩
  rw [exec_eq]
  simp only [accept, hr]

theorem State.undisturbed_rfl (s : State) : s.undisturbed s := ⟨rfl, rfl, rfl, rfl, rfl, rfl, rfl, rfl⟩

/-- The idle block at a move of the host that is neither a frame nor a reset: no register and no token (60_exceptions.md
R257). -/
theorem stepIdle_undisturbed {s t : State} (hsend : ∀ bytes moves, s.host ≠ .send bytes :: moves)
    (hreset : ∀ moves, s.host ≠ .reset :: moves) (h : stepIdle exec s = .next t) : s.undisturbed t := by
  unfold stepIdle at h
  split at h
  case h_1 => cases h; exact State.undisturbed_rfl s
  case h_2 bytes moves hh => exact absurd hh (hsend bytes moves)
  case h_3 => cases h; exact State.undisturbed_rfl s
  case h_4 =>
    unfold placeByte at h
    split at h
    · cases h; exact State.undisturbed_rfl s
    · cases h
  case h_5 => cases h; exact State.undisturbed_rfl s
  case h_6 moves hh => exact absurd hh (hreset moves)

/-- Settles O20, by the host's moves; bytes that are no complete frame are only taken from the host. -/
theorem idleBlockKeepsItsState : Obligations.IdleBlockKeepsItsState := by
  intro s hu hb
  rw [step_idle hu hb]
  refine ⟨fun hh => by simp only [stepIdle, hh], fun t hsend hreset h => stepIdle_undisturbed hsend hreset h,
    fun bytes moves hh hdecode => ⟨withHost moves s, ?_, State.undisturbed_rfl s⟩⟩
  simp only [stepIdle, hh, takeFrame, hdecode]

end Sys2Proof.Machine
end

section
/-! A token that fails or is never answered, wherever it stands among a command's effects (00_scope.md R11; 20_memory.md R57,
R70; 60_exceptions.md R241, R243, R259). -/

namespace Sys2Proof.Machine

/-- What meets the token after those a command in progress has delivered. -/
theorem nextDraw_delivered {s : State} {es : List Effect} {ts : List Token} {d : Draw} (h : s.draws[ts.length]? = some d)
    (q : Panel) : nextDraw { (applyWrites es s).delivered ts q with busy := true } = d := by
  obtain ⟨-, -, -, -, hdraws, -⟩ := applyWrites_keep es s
  simp only [nextDraw]
  rw [delivered_draws, hdraws, List.headD_eq_head?_getD, List.head?_drop, h, Option.getD_some]

/-- Settles O11: the effects before the token are run; the failure there is a fault on a machine that was idle and without a
fault before the command. -/
theorem transportFailureAborts : Obligations.TransportFailureAborts := by
  intro i s pre t post q hs he hv hquiet hd ho
  obtain ⟨hrun, -⟩ := exec_runs hs he hv hquiet ho
  obtain ⟨-, -, hfault, htrace, hdraws, -⟩ := applyWrites_keep pre s
  have hraise := raiseFault_idle (s := losePanel (record t .fail ((applyWrites pre s).delivered (effectTokens pre) q)))
    (idle_delivered hs.1 pre (effectTokens pre) q) (hfault.trans hs.2.1) .transport
  rw [hrun, runEffects_failed (nextDraw_delivered hd q)]
  refine congrArg Host.Outcome.next (hraise.trans ?_)
  simp [losePanel, record, State.delivered, htrace, hdraws]

/-- Where a frame's execution waits for the transport, the machine takes no step that begins with no move of the host or with
a frame (60_exceptions.md R259). -/
theorem step_hung {s : State} {f : PortFrame} {es : List Effect} (hu : s.undef = none) (hb : s.busy = true)
    (hw : s.work = some ⟨f, es, .transport⟩) (hh : s.host = [] ∨ ∃ bytes moves, s.host = .send bytes :: moves) :
    step s = .fault .hung := by
  rcases hh with hh | ⟨bytes, moves, hh⟩ <;> simp only [step, machineStep, hu, hb, hw, stepHung, hh, if_true]

/-- Settles O12: the effects before the token are run, and the frame's execution is left waiting for the transport. -/
theorem unansweredTokenHangs : Obligations.UnansweredTokenHangs := by
  intro i s pre t post q hs he hv hquiet hd ho
  obtain ⟨hrun, -⟩ := exec_runs hs he hv hquiet ho
  obtain ⟨-, -, hfault, htrace, -, -, -, hundef, hhost⟩ := applyWrites_keep pre s
  rw [runEffects_unanswered (nextDraw_delivered hd q)] at hrun
  refine ⟨_, hrun, rfl, hfault.trans hs.2.1, hundef.trans hs.1.1, ?_, rfl, fun hh => ?_⟩
  · simp [suspend, htrace]
  · rw [← hhost] at hh
    exact step_hung (hundef.trans hs.1.1) rfl rfl hh

end Sys2Proof.Machine
end

section
/-! Reset at any time, and the port while BUSY = 1 (10_state.md R40; 70 R270, R274, R281). -/

namespace Sys2Proof.Machine

/-- A command in progress that goes on leaves the host's moves to come where they were (70 R274). -/
theorem resume_host (s : State) : (resume s).host = s.host := by
  unfold resume
  split
  case h_1 w _ =>
    obtain ⟨-, -, -, hhost, -⟩ := runEffects_environment w.frame w.rest s
    exact hhost
  case h_2 => exact endCommand_host s

/-- While BUSY = 1 the port takes no frame, a command's or a reserved opcode's (70 R274). -/
theorem accept_busy {s : State} (hu : s.undef = none) (hb : s.busy = true) (f : PortFrame) (own : State → List Effect) :
    accept f own s = .fault .portBusy := by
  simp only [accept, hu, hb, if_true]

/-- The one step of a busy block while the host offers a frame: its execution goes on (70 R274). -/
theorem step_busy_send {s t : State} {bytes : List Byte} {moves : List HostMove} (hb : s.busy = true)
    (hh : s.host = .send bytes :: moves) (h : step s = .next t) : t = resume s := by
  have idle : ¬ s.busy = false := ne_false_of_eq_true hb
  obtain ⟨-, hcases⟩ := step_cases h
  rcases hcases with ⟨hidle, -⟩ | ⟨hidle, -⟩ | ⟨hidle, -⟩ | ⟨_, _, hmove, -⟩ | ⟨_, hmove, -⟩ | ⟨_, hmove, -⟩ | ⟨-, ht⟩
  · exact absurd hidle idle
  · exact absurd hidle idle
  · exact absurd hidle idle
  · cases hh.symm.trans hmove
  · cases hh.symm.trans hmove
  · cases hh.symm.trans hmove
  · exact ht

/-- Settles O10: acceptance looks at BUSY; a step of the busy block only lets its execution go on. -/
theorem portTakesNoFrameWhileBusy : Obligations.PortTakesNoFrameWhileBusy := by
  intro s hu hb
  refine ⟨fun i => ?_, fun t bytes moves hh h => ?_⟩
  · rw [exec_eq, accept_busy hu hb]
  · rw [step_busy_send hb hh h, resume_host]

/-- A reset lands at any time no verdict has stopped the run: on the idle block, on an execution that waits for the host, and
on one the transport never answers (70 R270, R281; 60_exceptions.md R259). -/
theorem step_reset {s : State} {moves : List HostMove} (hu : s.undef = none) (hh : s.host = .reset :: moves) :
    step s = .next (resetBlock (withHost moves s)) := by
  cases hb : s.busy
  case false => rw [step_idle hu hb, stepIdle, hh]
  case true =>
    rcases hw : s.work with _ | ⟨f, es, _ | _⟩ <;> simp [step, machineStep, hu, hb, hw, stepPaused, stepHung, hh]

/-- Settles O14: a reset is the block's reset and takes the host's move; UNDEF is none of its registers. -/
theorem resetRestoresTheRegisters : Obligations.ResetRestoresTheRegisters :=
  ⟨fun _ _ hu hh => step_reset hu hh, resetBlock_undef⟩

end Sys2Proof.Machine
end
